-- ==== Sys2Proof/Word.lean ====
section
/-! DEFINITION. The widths of the hardware: 8-bit registers and bytes, 16-bit words and addresses
(00_scope.md R5, R8), and the selectors of its two indexed register files. -/

namespace Sys2Proof

/-- `XLEN`: a general register, a timer, a byte of memory, the immediate `nn` (R5, R8). -/
abbrev Byte := BitVec 8

/-- `ALEN`: `PC`, `I`, a stack entry; also an instruction word `op` (R5, R6, R8). -/
abbrev Word := BitVec 16

/-- The immediate `nnn`, an unsigned 12-bit value (R73). -/
abbrev Target := BitVec 12

/-- A register selector `x` or `y`: `V0` to `VF` (R20, R73). -/
abbrev Reg := Fin 16

/-- A key number, 0x0 to 0xF (R33). -/
abbrev Key := Fin 16

/-- A cell number of the framebuffer, `px + 64 * py` (R34). -/
abbrev Cell := Fin 2048

end Sys2Proof
end

