-- ==== Sys2Proof/Decode.lean ====
section
/-! DEFINITION. Decoding (30_encoding.md R70 to R78): the fields of a word, the opcode table as a list of
rows with mask and match, and decoding as the search for the row that selects the word; then the encoder
of R83. -/

namespace Sys2Proof

/-! ### Fields (R71) -/

/-- `x = op[11:8]`. -/
def fieldX (op : Word) : Reg := (op.extractLsb' 8 4).toFin

/-- `y = op[7:4]`. -/
def fieldY (op : Word) : Reg := (op.extractLsb' 4 4).toFin

/-- `n = op[3:0]`, an unsigned count. -/
def fieldN (op : Word) : Nat := (op.extractLsb' 0 4).toNat

/-- `nn = op[7:0]`. -/
def fieldNN (op : Word) : Byte := op.extractLsb' 0 8

/-- `nnn = op[11:0]`. -/
def fieldNNN (op : Word) : Target := op.extractLsb' 0 12

/-- The word of two bytes, the byte at the lower address being `op[15:8]` (R54). -/
def assemble (hi lo : Byte) : Word := hi ++ lo

/-- `op[15:8]`, the byte at the lower address (R54). -/
def highByte (op : Word) : Byte := op.extractLsb' 8 8

/-- `op[7:0]`, the byte at the higher address (R54). -/
def lowByte (op : Word) : Byte := op.extractLsb' 0 8

/-! ### The opcode table (R76, R81) -/

/-- A row of the table: a word `op` selects it exactly when `op & mask = pattern`; `build` reads the
operand fields of the word. -/
structure Row where
  mask : Word
  pattern : Word
  build : Word → Instr

/-- "A word `op` selecting the row exactly when `op & mask = match`" (R74, R81). -/
def Row.selects (op : Word) (r : Row) : Bool := op &&& r.mask == r.pattern

/-- Rows 1 to 10 of R76. -/
def opcodeRowsA : List Row :=
  [ ⟨0xFFFF, 0x0000, fun _ => .nop⟩,
    ⟨0xFFFF, 0x00E0, fun _ => .cls⟩,
    ⟨0xFFFF, 0x00EE, fun _ => .ret⟩,
    ⟨0xF000, 0x1000, fun op => .jp (fieldNNN op)⟩,
    ⟨0xF000, 0x2000, fun op => .call (fieldNNN op)⟩,
    ⟨0xF000, 0x3000, fun op => .seImm (fieldX op) (fieldNN op)⟩,
    ⟨0xF000, 0x4000, fun op => .sneImm (fieldX op) (fieldNN op)⟩,
    ⟨0xF00F, 0x5000, fun op => .seReg (fieldX op) (fieldY op)⟩,
    ⟨0xF000, 0x6000, fun op => .ldImm (fieldX op) (fieldNN op)⟩,
    ⟨0xF000, 0x7000, fun op => .addImm (fieldX op) (fieldNN op)⟩ ]

/-- Rows 11 to 20 of R76. -/
def opcodeRowsB : List Row :=
  [ ⟨0xF00F, 0x8000, fun op => .ldReg (fieldX op) (fieldY op)⟩,
    ⟨0xF00F, 0x8001, fun op => .orReg (fieldX op) (fieldY op)⟩,
    ⟨0xF00F, 0x8002, fun op => .andReg (fieldX op) (fieldY op)⟩,
    ⟨0xF00F, 0x8003, fun op => .xorReg (fieldX op) (fieldY op)⟩,
    ⟨0xF00F, 0x8004, fun op => .addReg (fieldX op) (fieldY op)⟩,
    ⟨0xF00F, 0x8005, fun op => .sub (fieldX op) (fieldY op)⟩,
    ⟨0xF00F, 0x8006, fun op => .shr (fieldX op) (fieldY op)⟩,
    ⟨0xF00F, 0x8007, fun op => .subn (fieldX op) (fieldY op)⟩,
    ⟨0xF00F, 0x800E, fun op => .shl (fieldX op) (fieldY op)⟩,
    ⟨0xF00F, 0x9000, fun op => .sneReg (fieldX op) (fieldY op)⟩ ]

/-- Rows 21 to 32 of R76. -/
def opcodeRowsC : List Row :=
  [ ⟨0xF000, 0xA000, fun op => .ldI (fieldNNN op)⟩,
    ⟨0xF000, 0xB000, fun op => .jpV0 (fieldNNN op)⟩,
    ⟨0xF000, 0xC000, fun op => .rnd (fieldX op) (fieldNN op)⟩,
    ⟨0xF000, 0xD000, fun op => .drw (fieldX op) (fieldY op) (fieldN op)⟩,
    ⟨0xF0FF, 0xE09E, fun op => .skp (fieldX op)⟩,
    ⟨0xF0FF, 0xE0A1, fun op => .sknp (fieldX op)⟩,
    ⟨0xF0FF, 0xF007, fun op => .ldVxDT (fieldX op)⟩,
    ⟨0xF0FF, 0xF00A, fun op => .ldVxK (fieldX op)⟩,
    ⟨0xF0FF, 0xF015, fun op => .ldDT (fieldX op)⟩,
    ⟨0xF0FF, 0xF018, fun op => .ldST (fieldX op)⟩,
    ⟨0xF0FF, 0xF01E, fun op => .addI (fieldX op)⟩,
    ⟨0xF0FF, 0xF029, fun op => .ldF (fieldX op)⟩ ]

/-- The 32 rows in the order of R76. -/
def opcodeTable : List Row := opcodeRowsA ++ opcodeRowsB ++ opcodeRowsC

/-! ### Decoding -/

/-- What a word decodes to (R74). -/
inductive Verdict where
  /-- One of the 32 instructions with its operands. -/
  | instr (i : Instr)
  /-- "A word that matches no row decodes to `Unimplemented`": executing it is fatal (R78). -/
  | unimplemented
  deriving DecidableEq, Repr

/-- "Decode is a total function from the 65536 words" (R74): the one row that selects the word builds the
instruction. -/
def decodeWord (op : Word) : Verdict :=
  match opcodeTable.find? (Row.selects op) with
  | some r => .instr (r.build op)
  | none => .unimplemented

/-- What a run of bytes decodes to. -/
inductive Decoded where
  /-- An instruction and the bytes after its two. -/
  | instr (i : Instr) (rest : List Byte)
  /-- An illegal word, named by its value (R78). -/
  | unimplemented (op : Word)
  /-- Fewer than the two bytes of an instruction (R70). -/
  | truncated
  deriving DecidableEq, Repr

/-- Every instruction is two bytes, the high byte first (R70, R54). -/
def decodeBytes : List Byte → Decoded
  | hi :: lo :: rest =>
    match decodeWord (assemble hi lo) with
    | .instr i => .instr i rest
    | .unimplemented => .unimplemented (assemble hi lo)
  | [_] => .truncated
  | [] => .truncated

/-- The instruction the decoder reads from the table word `w`, laid out in memory order: the table's one
16-bit word, its high byte at the lower address (R81, R54). Bits at and above `nbits` are 0. -/
def decodeTableWord (nbits w : Nat) : Option Instr :=
  let op : Word := BitVec.ofNat 16 (w % 2 ^ nbits)
  match decodeBytes [highByte op, lowByte op] with
  | .instr i _ => some i
  | .unimplemented _ => none
  | .truncated => none

/-! ### Encoding (R83: "the row's `match` with each field placed by rule R71") -/

/-- `x << 8`. -/
def placeX (x : Reg) : Word := BitVec.ofNat 16 x.val <<< 8

/-- `y << 4`. -/
def placeY (y : Reg) : Word := BitVec.ofNat 16 y.val <<< 4

/-- The word of an instruction; for a well-formed one, the word that decodes to it. -/
def encode : Instr → Word
  | .nop => 0x0000
  | .cls => 0x00E0
  | .ret => 0x00EE
  | .jp nnn => 0x1000 ||| nnn.setWidth 16
  | .call nnn => 0x2000 ||| nnn.setWidth 16
  | .seImm x nn => 0x3000 ||| placeX x ||| nn.setWidth 16
  | .sneImm x nn => 0x4000 ||| placeX x ||| nn.setWidth 16
  | .seReg x y => 0x5000 ||| placeX x ||| placeY y
  | .ldImm x nn => 0x6000 ||| placeX x ||| nn.setWidth 16
  | .addImm x nn => 0x7000 ||| placeX x ||| nn.setWidth 16
  | .ldReg x y => 0x8000 ||| placeX x ||| placeY y
  | .orReg x y => 0x8001 ||| placeX x ||| placeY y
  | .andReg x y => 0x8002 ||| placeX x ||| placeY y
  | .xorReg x y => 0x8003 ||| placeX x ||| placeY y
  | .addReg x y => 0x8004 ||| placeX x ||| placeY y
  | .sub x y => 0x8005 ||| placeX x ||| placeY y
  | .shr x y => 0x8006 ||| placeX x ||| placeY y
  | .subn x y => 0x8007 ||| placeX x ||| placeY y
  | .shl x y => 0x800E ||| placeX x ||| placeY y
  | .sneReg x y => 0x9000 ||| placeX x ||| placeY y
  | .ldI nnn => 0xA000 ||| nnn.setWidth 16
  | .jpV0 nnn => 0xB000 ||| nnn.setWidth 16
  | .rnd x nn => 0xC000 ||| placeX x ||| nn.setWidth 16
  | .drw x y n => 0xD000 ||| placeX x ||| placeY y ||| BitVec.ofNat 16 n
  | .skp x => 0xE09E ||| placeX x
  | .sknp x => 0xE0A1 ||| placeX x
  | .ldVxDT x => 0xF007 ||| placeX x
  | .ldVxK x => 0xF00A ||| placeX x
  | .ldDT x => 0xF015 ||| placeX x
  | .ldST x => 0xF018 ||| placeX x
  | .addI x => 0xF01E ||| placeX x
  | .ldF x => 0xF029 ||| placeX x

/-- The two bytes of an instruction in memory order (R54, R70). -/
def encodeBytes (i : Instr) : List Byte := [highByte (encode i), lowByte (encode i)]

end Sys2Proof
end

