-- ==== Sys2Proof/Config.lean ====
section
/-! DEFINITION. What is fixed for the machine: the named constants of 00_scope.md R5, the recommended
instantiation of the parameter `FONT` (93_implementation_defined.md U1), and the one free value, the
random byte of CXNN. -/

namespace Sys2Proof.Config

/-- `MEM_SIZE`: bytes of memory; valid addresses are 0 to 4095 (R5). -/
@[simp] abbrev memSize : Nat := 4096

/-- `PROG_BASE`: where a ROM image is loaded and where `PC` starts (R5). -/
@[simp] abbrev progBase : Nat := 0x200

/-- `ROM_MAX`: the largest ROM image in bytes (R5). -/
@[simp] abbrev romMax : Nat := memSize - progBase

/-- `FONT_SIZE`: the font occupies addresses 0 to 79 (R5). -/
@[simp] abbrev fontSize : Nat := 80

/-- `FONT_STRIDE`: bytes per glyph (R5). -/
@[simp] abbrev fontStride : Nat := 5

/-- `STACK_DEPTH`: call-stack capacity in entries (R5). -/
@[simp] abbrev stackDepth : Nat := 16

/-- `DISP_W`: framebuffer width in pixels (R5). -/
@[simp] abbrev dispW : Nat := 64

/-- `DISP_H`: framebuffer height in pixels (R5). -/
@[simp] abbrev dispH : Nat := 32

/-- The random byte `rnd` of the `k`-th CXNN executed (R12 (c), R122). A FREE VALUE: it has no body, so
nothing can be proved about it and every claim holds for every source of randomness (log 2). -/
opaque rnd : Nat → Byte

/-- The customary glyphs 0 to 7 of 93_implementation_defined.md U1. PRESUMED (log 3): the source does not
give the bytes. -/
def customaryFontLow : List Byte :=
  [0xF0, 0x90, 0x90, 0x90, 0xF0,  0x20, 0x60, 0x20, 0x20, 0x70,
   0xF0, 0x10, 0xF0, 0x80, 0xF0,  0xF0, 0x10, 0xF0, 0x10, 0xF0,
   0x90, 0x90, 0xF0, 0x10, 0x10,  0xF0, 0x80, 0xF0, 0x10, 0xF0,
   0xF0, 0x80, 0xF0, 0x90, 0xF0,  0xF0, 0x10, 0x20, 0x40, 0x40]

/-- The customary glyphs 8 to F of 93_implementation_defined.md U1. PRESUMED (log 3). -/
def customaryFontHigh : List Byte :=
  [0xF0, 0x90, 0xF0, 0x90, 0xF0,  0xF0, 0x90, 0xF0, 0x10, 0xF0,
   0xF0, 0x90, 0xF0, 0x90, 0x90,  0xE0, 0x90, 0xE0, 0x90, 0xE0,
   0xF0, 0x80, 0x80, 0x80, 0xF0,  0xE0, 0x90, 0x90, 0x90, 0xE0,
   0xF0, 0x80, 0xF0, 0x80, 0xF0,  0xF0, 0x80, 0xF0, 0x80, 0x80]

/-- The recommended instantiation of `FONT`: `FONT[5 * d + j]` is row `j` of digit `d`'s glyph
(R12 (a), U1). PRESUMED (log 3); only State.reset rests on it. -/
def customaryFont : Vector Byte 80 :=
  ⟨(customaryFontLow ++ customaryFontHigh).toArray, rfl⟩

end Sys2Proof.Config
end

