-- ==== Sys2Proof/Machine/Options.lean ====
section
/-! DEFINITION. The settings a run starts with for the two parameters the spec leaves open (00_scope.md R12).
They are initial values of `env` only: every meaning reads the settings of the state it is given. -/

namespace Sys2Proof.Machine

/-- `FONT` at the start of a run: the recommended instantiation (R12 (a), 93_implementation_defined.md U1).
PRESUMED (log 3). -/
def initialFont : Vector Byte 80 := Config.customaryFont

/-- `BITOPS_ALL_OR` at the start of a run: "a Boolean, default `false`" (R12 (b), log 4). -/
def initialBitopsAllOr : Bool := false

end Sys2Proof.Machine
end

