-- ==== Sys2Proof/Machine/State.lean ====
section
/-! DEFINITION. The state of the machine (10_state.md R20 to R38): the eleven pieces of state of R36's table,
and, in a structure of its own, what the spec hands the machine from outside (00_scope.md R9 to R12). The
fatal conditions (60_exceptions.md R170), the refusals, and the state after RESET (R36, R190). -/

namespace Sys2Proof.Machine

/-- The fatal conditions with their recorded information (R170, codes 1 to 6 in this order). Raising one is
a NEXT state: `State.raise` latches it in `fault` and every other piece of state keeps its value (R176). No
step of the model ends in `Outcome.fault` (log 1). -/
inductive Fault where
  /-- Raised by CALL through `State.push` when `SP = 16`; `v` is the return address that could not be pushed
  (R28, R97). Safe: the spec states it. -/
  | stackOverflow (v : Word)
  /-- Raised by RET through `State.pop` when `SP = 0` (R29, R95). Safe: the spec states it. -/
  | stackUnderflow
  /-- Raised by TICK when the fetched word matches no row of the opcode table (R78, R90). Safe: the spec
  states it. -/
  | unimplementedOpcode (op : Word)
  /-- Raised by the fetch and by DRW when an address read is 4096 or more; `addr` is unbounded (R51, R53,
  R141). Safe: the spec states it. -/
  | memoryOutOfRange (addr : Nat)
  /-- Raised by LOAD when the image is longer than 3584 bytes (R192). Safe: the spec states it. -/
  | romTooLarge (len : Nat)
  /-- Raised by SKP and SKNP when `V[x] > 15` (R150). Safe: the spec states it. -/
  | keyIndexOutOfRange (k : Byte)
  deriving DecidableEq, Repr

/-- The spec's numeric code of a fatal condition (R170). -/
def Fault.code : Fault → Nat
  | .stackOverflow _ => 1
  | .stackUnderflow => 2
  | .unimplementedOpcode _ => 3
  | .memoryOutOfRange _ => 4
  | .romTooLarge _ => 5
  | .keyIndexOutOfRange _ => 6

/-- Why the model would have no meaning for an instruction. -/
inductive Refusal where
  /-- Raised by an arm of exec whose instruction has no meaning yet; no arm of this model answers so. Safe: it
  stops where the hardware goes on. -/
  | notModelled (mnemonic : String)
  deriving DecidableEq, Repr

/-- The six commands, "the only way anything outside the block reads or changes its state" (R10). TICK's
argument `rnd` is the free value `Config.rnd` (log 2). -/
inductive Command where
  /-- `new()`, `construct()` (R190) -/
  | reset
  /-- `load_game(bytes)` (R192) -/
  | load (bytes : List Byte)
  /-- `tick()` (R90) -/
  | tick
  /-- `tick_timers()` (R164) -/
  | tickTimers
  /-- `keypress(k, pressed)`; `k` is typed 0 to 15 (R154) -/
  | keypress (k : Key) (pressed : Bool)
  /-- `get_display()` (R144) -/
  | display
  deriving DecidableEq, Repr

/-- The 2048 cells `FB[0]` to `FB[2047]`, pixel `(px, py)` at `px + 64 * py` (R34). -/
abbrev Framebuffer := Vector Bool 2048

/-- What a command returns to the host. -/
inductive Reply where
  /-- The Boolean `tone_cue` of TICK_TIMERS (R164). -/
  | toneCue (cue : Bool)
  /-- The cells DISPLAY returns, in index order (R144). -/
  | cells (fb : Framebuffer)
  deriving DecidableEq, Repr

/-- `MEM`, as the list of the bytes that differ from the reset contents, by rising address (log 13). -/
abbrev Memory := List Host.Cell

/-- What the spec hands the machine from outside: "the configuration the model takes as arguments, and the
inputs of a step. These are not state" (R12), and the host's commands (R9 to R11). They stand in State because
the form of `exec` and `step` leaves no other place for an argument (log 3, 4, 5). -/
structure Env where
  /-- `FONT`, the 80 font bytes (R12 (a)); no command changes it. -/
  font : Vector Byte 80
  /-- `BITOPS_ALL_OR` (R12 (b)); no command changes it. -/
  bitopsAllOr : Bool
  /-- How many random bytes CXNN has drawn; the next one is `Config.rnd draws` (R12 (c), log 2). -/
  draws : Nat
  /-- The commands the host issues next, in order; when there is none the next command is a TICK (R11, log 5). -/
  pending : List Command
  /-- What TICK_TIMERS and DISPLAY have returned to the host, oldest first (log 6). -/
  replies : List Reply
  deriving DecidableEq, Repr

/-- The state of the block (R36): eleven pieces, and the environment. -/
structure State where
  /-- `V[0]` to `V[15]`; `VF` is `V[15]` (R20, R21). -/
  v : Vector Byte 16
  /-- `PC`, the program counter (R22). -/
  pc : Word
  /-- `I`, the index register (R26). -/
  i : Word
  /-- `SP`, the number of live stack entries, 0 to 16 (R25, R27). -/
  sp : Fin 17
  /-- `STACK[0]` to `STACK[15]` (R27). -/
  stack : Vector Word 16
  /-- `MEM` (R30). -/
  mem : Memory
  /-- `DT`, the delay timer (R31). -/
  dt : Byte
  /-- `ST`, the sound timer (R31). -/
  st : Byte
  /-- `KEY[0]` to `KEY[15]` (R33). -/
  key : Vector Bool 16
  /-- `FB` (R34). -/
  fb : Framebuffer
  /-- `FAULT`: none, or the fatal condition that stopped the machine (R35). -/
  fault : Option Fault
  /-- What comes from outside the block; not state of the hardware (R12). -/
  env : Env
  deriving DecidableEq, Repr

/-- What one step answers. -/
abbrev Result := Host.Outcome State Fault Refusal

/-- The environment a run starts with: the recommended `FONT` (PRESUMED, log 3), the default `BITOPS_ALL_OR`
(R12 (b)), nothing drawn, nothing pending, nothing returned. -/
def Env.initial : Env :=
  { font := initialFont, bitopsAllOr := initialBitopsAllOr, draws := 0, pending := [], replies := [] }

/-- The machine right after RESET (R36, R190): every register 0, `PC = 0x200`, memory at its reset contents
(nothing listed), no key, no pixel, not stopped. -/
def State.reset : State :=
  { v := Vector.replicate 16 0
    pc := 0x200
    i := 0
    sp := 0
    stack := Vector.replicate 16 0
    mem := []
    dt := 0
    st := 0
    key := Vector.replicate 16 false
    fb := Vector.replicate 2048 false
    fault := none
    env := Env.initial }

end Sys2Proof.Machine
end

