-- ==== Sys2Proof/Machine/Ops.lean ====
section
/-! DEFINITION. The named operations over registers, memory, the call stack, the command queue, and TAKING A
FATAL CONDITION (60_exceptions.md R176), the one exception entry of the hardware. There is no return from one
but RESET (R178). -/

namespace Sys2Proof.Machine

/-! ### Memory as data: one canonical form, read and write (20_memory.md R51, R52) -/

/-- What an address that is not listed reads as: the reset contents, `FONT[a]` below 80 and 0 above (R36,
R57, log 13). -/
def Memory.unlisted (font : Vector Byte 80) (a : Nat) : Byte :=
  if h : a < 80 then font[a] else 0

/-- The byte at an address. -/
def Memory.read (font : Vector Byte 80) : Memory → Nat → Byte
  | [], a => Memory.unlisted font a
  | (b, u) :: m, a => if a = b then u else Memory.read font m a

/-- The memory without any byte listed at an address. -/
def Memory.erase (m : Memory) (a : Nat) : Memory := m.filter fun c => c.1 != a

/-- A byte listed in its place by rising address. -/
def Memory.insert (a : Nat) (u : Byte) : Memory → Memory
  | [] => [(a, u)]
  | (b, w) :: m => if a < b then (a, u) :: (b, w) :: m else (b, w) :: Memory.insert a u m

/-- `MEM[a] <- u` (R52): the address is listed exactly when `u` is not what it reads as unlisted. -/
def Memory.write (font : Vector Byte 80) (m : Memory) (a : Nat) (u : Byte) : Memory :=
  if u = Memory.unlisted font a then Memory.erase m a else Memory.insert a u (Memory.erase m a)

/-- The canonical form: addresses strictly rising and below 4096, and no entry equal to what its address reads
as unlisted. -/
def Memory.wf (font : Vector Byte 80) : Memory → Bool
  | [] => true
  | (a, u) :: m =>
    decide (a < Config.memSize) && decide (u ≠ Memory.unlisted font a) &&
      m.all (fun c => decide (a < c.1)) && Memory.wf font m

/-! ### Memory of a state -/

/-- The byte `MEM[a]`. -/
def State.byteAt (s : State) (a : Nat) : Byte := Memory.read s.env.font s.mem a

/-- `MemRead(addr, 1)` (R51): `addr` is an unbounded natural number, never reduced. -/
def State.readMem (s : State) (a : Nat) : Except Fault Byte :=
  if Config.memSize ≤ a then .error (.memoryOutOfRange a) else .ok (s.byteAt a)

/-- `MemWrite(addr, 1, v)` (R52), performed by LOAD only (RESET rebuilds the memory whole). -/
def State.writeMem (s : State) (a : Nat) (u : Byte) : State :=
  { s with mem := Memory.write s.env.font s.mem a u }

/-- Bytes written one after the other from an address upward (R56, R192). -/
def State.writeBytes (s : State) (a : Nat) : List Byte → State
  | [] => s
  | u :: us => (s.writeMem a u).writeBytes (a + 1) us

/-- The bytes at `a`, `a + 1`, ..., `n` of them, each read checked; the first address out of range is the one
reported (R141). -/
def State.readBytes (s : State) (a : Nat) : Nat → Except Fault (List Byte)
  | 0 => .ok []
  | n + 1 =>
    match s.readMem a with
    | .error f => .error f
    | .ok u =>
      match s.readBytes (a + 1) n with
      | .error f => .error f
      | .ok us => .ok (u :: us)

/-! ### Registers (10_state.md R20 to R31) -/

/-- `V[x]`. -/
def State.reg (s : State) (x : Reg) : Byte := s.v[x.val]

/-- `V[x] <- b`. No register is hard-wired (R20). -/
def State.setReg (s : State) (x : Reg) (b : Byte) : State := { s with v := s.v.set x.val b }

/-- `PC <- w`. -/
def State.setPc (s : State) (w : Word) : State := { s with pc := w }

/-- `I <- w`. -/
def State.setI (s : State) (w : Word) : State := { s with i := w }

/-- `DT <- b`. -/
def State.setDt (s : State) (b : Byte) : State := { s with dt := b }

/-- `ST <- b`. -/
def State.setSt (s : State) (b : Byte) : State := { s with st := b }

/-- `FB <- fb`. -/
def State.setFb (s : State) (fb : Framebuffer) : State := { s with fb := fb }

/-- `KEY[k] <- p`. -/
def State.setKey (s : State) (k : Key) (p : Bool) : State := { s with key := s.key.set k.val p }

/-- The fetch's `PC <- PC + 2` (R91). -/
def State.advance (s : State) : State := s.setPc (s.pc + 2)

/-- A skip: 2 added to the already advanced `PC` when the condition holds (41_skips.md R104). -/
def State.skipIf (s : State) (c : Bool) : State := s.setPc (if c then s.pc + 2 else s.pc)

/-! ### The call stack (R27 to R29) -/

/-- `Push(v)` (R28): fatal when 16 entries are live. -/
def State.push (s : State) (w : Word) : Except Fault State :=
  if h : s.sp.val < 16 then
    .ok { s with stack := s.stack.set s.sp.val w, sp := ⟨s.sp.val + 1, by omega⟩ }
  else .error (.stackOverflow w)

/-- `Pop()` (R29): fatal when no entry is live; the popped slot keeps its value. -/
def State.pop (s : State) : Except Fault (Word × State) :=
  if h : 0 < s.sp.val then
    .ok (s.stack[s.sp.val - 1], { s with sp := ⟨s.sp.val - 1, by omega⟩ })
  else .error .stackUnderflow

/-! ### The random byte (R12 (c), R122) -/

/-- The random byte the next CXNN is given: a free value (log 2). -/
def State.rnd (s : State) : Byte := Config.rnd s.env.draws

/-- The random byte has been used: the next draw is another free value (log 2). -/
def State.drawn (s : State) : State := { s with env := { s.env with draws := s.env.draws + 1 } }

/-! ### Fetch (R53, R91) -/

/-- The word at `PC`, `MEM[PC] ++ MEM[PC + 1]`; both reads are checked, in that order, and `PC + 1` does not
wrap. -/
def State.fetch (s : State) : Except Fault Word :=
  match s.readMem s.pc.toNat with
  | .error f => .error f
  | .ok hi =>
    match s.readMem (s.pc.toNat + 1) with
    | .error f => .error f
    | .ok lo => .ok (assemble hi lo)

/-! ### Taking a fatal condition (R176) -/

/-- `raise F(info)` on the state the command began in: none of the command's writes happen, `FAULT <- F(info)`.
The fatal conditions are precise: `PC` still addresses the faulting instruction. -/
def State.raise (s : State) (f : Fault) : State := { s with fault := some f }

/-- The end of a command that began in `s`: its writes if it raised nothing, otherwise the raise. -/
def State.commit (s : State) : Except Fault State → Result
  | .ok t => .next t
  | .error f => .next (s.raise f)

/-! ### The host's commands (00_scope.md R10, R11) -/

/-- The command performed next: the host's first pending one, and TICK when none is pending (log 5). -/
def State.nextCommand (s : State) : Command :=
  match s.env.pending with
  | [] => .tick
  | c :: _ => c

/-- The first pending command, if any, is no longer pending. -/
def State.dequeue (s : State) : State := { s with env := { s.env with pending := s.env.pending.tail } }

/-- A command returns a value to the host (log 6). -/
def State.reply (s : State) (r : Reply) : State :=
  { s with env := { s.env with replies := s.env.replies ++ [r] } }

end Sys2Proof.Machine
end

