-- ==== Sys2Proof/Machine/Flags.lean ====
section
/-! DEFINITION. The flag computations of the five arithmetic and shift instructions that write `VF`, the flag
byte (also DRW's), and the order of the two writes (10_state.md R21, 42_register_alu.md R110, R123). -/

namespace Sys2Proof.Machine

/-- `VF`, the 16th general register, the only flag (R21). -/
def flagReg : Reg := 15

/-- The value a flag outcome writes to `VF`: 1 or 0 (R21). -/
def flagByte (c : Bool) : Byte := if c then 1 else 0

/-- Carry out of `a + b`: the exact sum is over 255 (R116, R123). -/
def carryOf (a b : Byte) : Bool := decide (255 < a.toNat + b.toNat)

/-- The negation of the borrow of `a - b`: `a >= b` (R117, R119, R123). -/
def notBorrowOf (a b : Byte) : Bool := decide (b.toNat ≤ a.toNat)

/-- The bit shifted out to the right: old bit 0 (R118). -/
def bitOutRight (a : Byte) : Bool := a.getLsbD 0

/-- The bit shifted out to the left: old bit 7 (R120). -/
def bitOutLeft (a : Byte) : Bool := a.getLsbD 7

/-- `VF <- if c then 1 else 0`. -/
def State.setFlag (s : State) (c : Bool) : State := s.setReg flagReg (flagByte c)

/-- "The result is written first and the flag last" (R110): with `x = 15` the flag is what `VF` holds. -/
def State.setResult (s : State) (x : Reg) (b : Byte) (c : Bool) : State := (s.setReg x b).setFlag c

end Sys2Proof.Machine
end

