-- ==== Sys2Proof/Machine/Operands.lean ====
section
/-! DEFINITION. The operand forms (30_encoding.md R73, 00_scope.md R8): zero-extended immediates, the two
address sums, the key index of SKP and SKNP, the lowest pressed key, the glyph address, and the bitwise
operations under `BITOPS_ALL_OR`. -/

namespace Sys2Proof.Machine

/-- `zext_16(nnn)`: a target written to `PC` or `I` (R73). -/
def zextTarget (nnn : Target) : Word := nnn.setWidth 16

/-- `zext_16(b)`. -/
def zextByte (b : Byte) : Word := b.setWidth 16

/-- `zext_16(V[0]) + zext_16(nnn)`, at most 4350, not reduced (R98). -/
def State.offsetTarget (s : State) (nnn : Target) : Word := zextByte (s.reg 0) + zextTarget nnn

/-- `(I + zext_16(V[x])) mod 65536` (R131). -/
def State.indexPlus (s : State) (x : Reg) : Word := s.i + zextByte (s.reg x)

/-- `zext_16(V[x]) * 5`: all 8 bits of `V[x]`, product at most 1275 (R132). -/
def State.glyphAddress (s : State) (x : Reg) : Word :=
  zextByte (s.reg x) * BitVec.ofNat 16 Config.fontStride

/-- The key named by the whole 8-bit value `V[x]`; a value above 15 names none and is fatal (R150). -/
def State.keyOf (s : State) (x : Reg) : Except Fault Key :=
  if h : (s.reg x).toNat < 16 then .ok ⟨(s.reg x).toNat, h⟩ else .error (.keyIndexOutOfRange (s.reg x))

/-- `KEY[k]`. -/
def State.pressed (s : State) (k : Key) : Bool := s.key[k.val]

/-- `min { k | KEY[k] }`, if a key is pressed (R153). -/
def State.lowestKey (s : State) : Option Key := (List.finRange 16).find? s.pressed

/-- The number of a key as a register value. -/
def keyByte (k : Key) : Byte := BitVec.ofNat 8 k.val

/-- `V[x] | V[y]` (R113). -/
def State.orOperands (s : State) (x y : Reg) : Byte := s.reg x ||| s.reg y

/-- `if BITOPS_ALL_OR then V[x] | V[y] else V[x] & V[y]` (R114). -/
def State.andOperands (s : State) (x y : Reg) : Byte :=
  if s.env.bitopsAllOr then s.reg x ||| s.reg y else s.reg x &&& s.reg y

/-- `if BITOPS_ALL_OR then V[x] | V[y] else V[x] ^ V[y]` (R115). -/
def State.xorOperands (s : State) (x y : Reg) : Byte :=
  if s.env.bitopsAllOr then s.reg x ||| s.reg y else s.reg x ^^^ s.reg y

end Sys2Proof.Machine
end

