-- ==== Sys2Proof/Machine/Alu.lean ====
section
/-! DEFINITION. The sub-block `opcode_alu`: register load, arithmetic, logic, shift and random
(42_register_alu.md R110 to R123). Results are 8-bit, modulo 256; operands are read from the state before
either write. -/

namespace Sys2Proof.Machine

/-- 6XNN: `V[x] <- nn` (R111). -/
def execLdImm (x : Reg) (nn : Byte) (s : State) : Result := .next (s.advance.setReg x nn)

/-- 7XNN: `V[x] <- (V[x] + nn) mod 256`, no flag (R112). -/
def execAddImm (x : Reg) (nn : Byte) (s : State) : Result := .next (s.advance.setReg x (s.reg x + nn))

/-- 8XY0: `V[x] <- V[y]` (R121). -/
def execLdReg (x y : Reg) (s : State) : Result := .next (s.advance.setReg x (s.reg y))

/-- 8XY1: `V[x] <- V[x] | V[y]`, no flag (R113). -/
def execOrReg (x y : Reg) (s : State) : Result := .next (s.advance.setReg x (s.orOperands x y))

/-- 8XY2: `V[x] <- V[x] & V[y]`, or OR under `BITOPS_ALL_OR`; no flag (R114). -/
def execAndReg (x y : Reg) (s : State) : Result := .next (s.advance.setReg x (s.andOperands x y))

/-- 8XY3: `V[x] <- V[x] ^ V[y]`, or OR under `BITOPS_ALL_OR`; no flag (R115). -/
def execXorReg (x y : Reg) (s : State) : Result := .next (s.advance.setReg x (s.xorOperands x y))

/-- 8XY4: `V[x] <- (V[x] + V[y]) mod 256`, `VF` = carry (R116). -/
def execAddReg (x y : Reg) (s : State) : Result :=
  .next (s.advance.setResult x (s.reg x + s.reg y) (carryOf (s.reg x) (s.reg y)))

/-- 8XY5: `V[x] <- (V[x] - V[y]) mod 256`, `VF` = not borrow (R117). -/
def execSub (x y : Reg) (s : State) : Result :=
  .next (s.advance.setResult x (s.reg x - s.reg y) (notBorrowOf (s.reg x) (s.reg y)))

/-- 8XY6: `V[x] <- V[x] >> 1`, `VF` = old bit 0; `y` is matched and ignored (R118, R77). -/
def execShr (x _y : Reg) (s : State) : Result :=
  .next (s.advance.setResult x (s.reg x >>> 1) (bitOutRight (s.reg x)))

/-- 8XY7: `V[x] <- (V[y] - V[x]) mod 256`, `VF` = not borrow (R119). -/
def execSubn (x y : Reg) (s : State) : Result :=
  .next (s.advance.setResult x (s.reg y - s.reg x) (notBorrowOf (s.reg y) (s.reg x)))

/-- 8XYE: `V[x] <- (V[x] << 1) mod 256`, `VF` = old bit 7; `y` is matched and ignored (R120, R77). -/
def execShl (x _y : Reg) (s : State) : Result :=
  .next (s.advance.setResult x (s.reg x <<< 1) (bitOutLeft (s.reg x)))

/-- CXNN: `V[x] <- rnd & nn`; the byte `rnd` is a free value, and the next CXNN gets another (R122, log 2). -/
def execRnd (x : Reg) (nn : Byte) (s : State) : Result := .next (s.advance.drawn.setReg x (s.rnd &&& nn))

end Sys2Proof.Machine
end

