-- ==== Sys2Proof/Machine/Control.lean ====
section
/-! DEFINITION. NOP, RET, JP, CALL and JP V0 (40_engine_and_control.md R94 to R98). A meaning takes the state
the TICK began in, `PC = p`: its first act is the fetch's advance (R91), and a fatal condition is raised on
the state it was given (R176, log 7). -/

namespace Sys2Proof.Machine

/-- 0000: nothing but the fetch's advance (R94). -/
def execNop (s : State) : Result := .next s.advance

/-- 00EE: `pc <- Pop()` (R95). -/
def execRet (s : State) : Result :=
  s.commit (s.advance.pop.map fun (w, t) => t.setPc w)

/-- 1NNN: `pc <- zext_16(nnn)` (R96). -/
def execJp (nnn : Target) (s : State) : Result := .next (s.advance.setPc (zextTarget nnn))

/-- 2NNN: `Push(PC); pc <- zext_16(nnn)`, the pushed `PC` being the advanced one (R97). -/
def execCall (nnn : Target) (s : State) : Result :=
  s.commit ((s.advance.push s.advance.pc).map fun t => t.setPc (zextTarget nnn))

/-- BNNN: `pc <- zext_16(V[0]) + zext_16(nnn)` (R98). -/
def execJpV0 (nnn : Target) (s : State) : Result := .next (s.advance.setPc (s.offsetTarget nnn))

end Sys2Proof.Machine
end

