-- ==== Sys2Proof/Machine/Display.lean ====
section
/-! DEFINITION. CLS and DRW (44_display.md R140 to R142). -/

namespace Sys2Proof.Machine

/-- The cell of a pixel, both coordinates wrapped: `(px mod 64) + 64 * (py mod 32)` (R34, R141). -/
def cellAt (px py : Nat) : Cell :=
  ⟨px % 64 + 64 * (py % 32), by omega⟩

/-- The cells of the 1 bits of sprite row `r` with byte `b`, column 0 being bit 7 (R141). -/
def rowCells (vx vy r : Nat) (b : Byte) : List Cell :=
  ((List.range 8).filter fun c => b.getLsbD (7 - c)).map fun c => cellAt (vx + c) (vy + r)

/-- The cells of the 1 bits of the rows from row `r` on, in the order DRW visits them (R141). -/
def spriteCells (vx vy r : Nat) : List Byte → List Cell
  | [] => []
  | b :: bs => rowCells vx vy r b ++ spriteCells vx vy (r + 1) bs

/-- One sprite bit: "record whether that pixel was already true (collision), and set it true" (R141). -/
def plotCell (acc : Framebuffer × Bool) (c : Cell) : Framebuffer × Bool :=
  (acc.1.set c.val true, acc.2 || acc.1[c.val])

/-- The framebuffer and the collision flag after the rows are drawn at `(vx, vy)` (R141). -/
def drawSprite (fb : Framebuffer) (vx vy : Nat) (rows : List Byte) : Framebuffer × Bool :=
  (spriteCells vx vy 0 rows).foldl plotCell (fb, false)

/-- The writes of a DRW whose rows have been read: the pixels, then `VF` (R141). -/
def State.setDrawing (s : State) (d : Framebuffer × Bool) : State := (s.setFb d.1).setFlag d.2

/-- 00E0: every cell false; `VF` is not written (R140). -/
def execCls (s : State) : Result := .next (s.advance.setFb (Vector.replicate 2048 false))

/-- DXYN: all `n` rows are read and checked before any pixel or `VF` is written; the coordinates are the values
of `V[x]` and `V[y]` on entry (R141). -/
def execDrw (x y : Reg) (n : Nat) (s : State) : Result :=
  s.commit ((s.readBytes s.i.toNat n).map fun rows =>
    s.advance.setDrawing (drawSprite s.fb (s.reg x).toNat (s.reg y).toNat rows))

end Sys2Proof.Machine
end

