-- ==== Sys2Proof/Machine/Index.lean ====
section
/-! DEFINITION. The three instructions that write the index register `I` (43_index.md R130 to R133). `I` is
not bounds-checked when written; none writes `VF`. -/

namespace Sys2Proof.Machine

/-- ANNN: `I <- zext_16(nnn)` (R130). -/
def execLdI (nnn : Target) (s : State) : Result := .next (s.advance.setI (zextTarget nnn))

/-- FX1E: `I <- (I + zext_16(V[x])) mod 65536`, no flag (R131). -/
def execAddI (x : Reg) (s : State) : Result := .next (s.advance.setI (s.indexPlus x))

/-- FX29: `I <- zext_16(V[x]) * 5` (R132). -/
def execLdF (x : Reg) (s : State) : Result := .next (s.advance.setI (s.glyphAddress x))

end Sys2Proof.Machine
end

