-- ==== Sys2Proof/Machine/Keypad.lean ====
section
/-! DEFINITION. SKP, SKNP and LD Vx, K (45_keypad.md R150 to R153). -/

namespace Sys2Proof.Machine

/-- EX9E: fatal when `V[x] > 15`, else skip if `KEY[V[x]]` (R151). -/
def execSkp (x : Reg) (s : State) : Result :=
  s.commit ((s.keyOf x).map fun k => s.advance.skipIf (s.pressed k))

/-- EXA1: fatal when `V[x] > 15`, else skip if not `KEY[V[x]]` (R152). -/
def execSknp (x : Reg) (s : State) : Result :=
  s.commit ((s.keyOf x).map fun k => s.advance.skipIf (!s.pressed k))

/-- FX0A: the lowest pressed key into `V[x]`; with none pressed the next instruction is skipped and `V[x]` kept.
It never blocks (R153). -/
def execLdVxK (x : Reg) (s : State) : Result :=
  match s.lowestKey with
  | some k => .next (s.advance.setReg x (keyByte k))
  | none => .next (s.advance.skipIf true)

end Sys2Proof.Machine
end

