-- ==== Sys2Proof/Machine/Skips.lean ====
section
/-! DEFINITION. The conditional skips on registers and immediates (41_skips.md R100 to R104). -/

namespace Sys2Proof.Machine

/-- 3XNN: `if V[x] = nn then pc <- PC + 2` (R100). -/
def execSeImm (x : Reg) (nn : Byte) (s : State) : Result := .next (s.advance.skipIf (s.reg x == nn))

/-- 4XNN: `if V[x] != nn then pc <- PC + 2` (R101). -/
def execSneImm (x : Reg) (nn : Byte) (s : State) : Result := .next (s.advance.skipIf (s.reg x != nn))

/-- 5XY0: `if V[x] = V[y] then pc <- PC + 2` (R102). -/
def execSeReg (x y : Reg) (s : State) : Result := .next (s.advance.skipIf (s.reg x == s.reg y))

/-- 9XY0: `if V[x] != V[y] then pc <- PC + 2` (R103). -/
def execSneReg (x y : Reg) (s : State) : Result := .next (s.advance.skipIf (s.reg x != s.reg y))

end Sys2Proof.Machine
end

