-- ==== Sys2Proof/Machine/Timers.lean ====
section
/-! DEFINITION. The timer instructions (46_timers.md R160 to R162). -/

namespace Sys2Proof.Machine

/-- FX07: `V[x] <- DT` (R160). -/
def execLdVxDT (x : Reg) (s : State) : Result := .next (s.advance.setReg x s.dt)

/-- FX15: `DT <- V[x]` (R161). -/
def execLdDT (x : Reg) (s : State) : Result := .next (s.advance.setDt (s.reg x))

/-- FX18: `ST <- V[x]` (R162). -/
def execLdST (x : Reg) (s : State) : Result := .next (s.advance.setSt (s.reg x))

end Sys2Proof.Machine
end

