-- ==== Sys2Proof/Machine/Engine.lean ====
section
/-! DEFINITION. The six commands (00_scope.md R10): the fetch-decode-execute engine TICK
(40_engine_and_control.md R90), TICK_TIMERS (46_timers.md R164), RESET and LOAD (70_reset_and_hazards.md R190,
R192), KEYPRESS (45_keypad.md R154) and DISPLAY (44_display.md R144); and the placing of an instruction where
the next fetch finds it. -/

namespace Sys2Proof.Machine

/-- The machine is stopped: `FAULT` is not `None` (60_exceptions.md R177). -/
def State.stopped (s : State) : Bool := s.fault.isSome

/-- TICK on a running machine: fetch, decode, execute, each of which can raise, in that order (R90, R93). -/
def fetchExecute (s : State) : Result :=
  match s.fetch with
  | .error f => s.commit (.error f)
  | .ok op =>
    match decodeWord op with
    | .unimplemented => s.commit (.error (.unimplementedOpcode op))
    | .instr i => exec i s

/-- TICK (R90); without effect on a stopped machine (R177). -/
def performTick (s : State) : Result := if s.stopped then .next s else fetchExecute s

/-- A timer counts down by 1 and stops at 0: "no wraparound, no borrow" (R31, R164). -/
def countDown (t : Byte) : Byte := if t = 0 then 0 else t - 1

/-- TICK_TIMERS (R164): both timers count down and the tone cue, `ST = 1` before the decrement, is returned. -/
def performTickTimers (s : State) : Result :=
  if s.stopped then .next s
  else .next (((s.setDt (countDown s.dt)).setSt (countDown s.st)).reply (.toneCue (s.st == 1)))

/-- KEYPRESS (R154). -/
def performKeypress (k : Key) (p : Bool) (s : State) : Result :=
  if s.stopped then .next s else .next (s.setKey k p)

/-- DISPLAY (R144): returns the framebuffer, changes nothing of the block. -/
def performDisplay (s : State) : Result :=
  if s.stopped then .next s else .next (s.reply (.cells s.fb))

/-- LOAD (R192): the whole image from 0x200 upward, or `RomTooLarge` and nothing. -/
def performLoad (bytes : List Byte) (s : State) : Result :=
  if s.stopped then .next s
  else if Config.romMax < bytes.length then s.commit (.error (.romTooLarge bytes.length))
  else .next (s.writeBytes Config.progBase bytes)

/-- RESET (R190): every piece of state takes its reset value, from every state; the environment, which is not
state of the block, stays (log 10). -/
def performReset (s : State) : Result := .next { State.reset with env := s.env }

/-- One command of the host, one atomic transition (R9, R10). -/
def perform (c : Command) (s : State) : Result :=
  match c with
  | .reset => performReset s
  | .load bytes => performLoad bytes s
  | .tick => performTick s
  | .tickTimers => performTickTimers s
  | .keypress k p => performKeypress k p s
  | .display => performDisplay s

/-! ### Placing an instruction for the next fetch -/

/-- Where an instruction can be placed for the next fetch: `PC` when two bytes exist there, else 0x200. -/
def State.placePc (s : State) : Word := if s.pc.toNat ≤ 4094 then s.pc else 0x200

/-- `s` with the word `op` at the place of the next fetch, running, and with TICK as its next command (log 12). -/
def State.place (s : State) (op : Word) : State :=
  { (s.writeBytes s.placePc.toNat [highByte op, lowByte op]) with
    pc := s.placePc, fault := none, env := { s.env with pending := [] } }

end Sys2Proof.Machine
end

