-- ==== Sys2Proof/Machine/Step.lean ====
section
/-! DEFINITION. One step of the machine: the next command of the host, TICK when none is pending
(00_scope.md R9 to R11), performed on the state in which it is no longer pending. -/

namespace Sys2Proof.Machine

/-- One step: one command, one atomic transition (R9). -/
def step (s : State) : Host.Outcome State Fault Refusal := perform s.nextCommand s.dequeue

/-- `s` with the table word `w` stored where step fetches its next instruction, high byte at the lower address
(log 12). -/
def State.withFetchWord (s : State) (nbits w : Nat) : State := s.place (BitVec.ofNat 16 (w % 2 ^ nbits))

end Sys2Proof.Machine
end

