-- ==== Sys2Proof/Safety.lean ====
section
/-! DEFINITION. The terms claims about the machine use: a running machine, the invariants of 10_state.md R38,
what a word of the encoding stands for, and what an instruction leaves unchanged. -/

namespace Sys2Proof.Machine

/-! ### Running and invariant -/

/-- `FAULT = None`: the premise of every claim about a program (60_exceptions.md R177). -/
def State.Running (s : State) : Prop := s.fault = none

/-- The next command is a TICK: the host has no other pending. -/
def State.Idle (s : State) : Prop := s.env.pending = []

/-- The information a fatal condition records is of the kind R170's table says. -/
def Fault.Legal : Fault → Prop
  | .stackOverflow v => v.toNat ≤ 4096
  | .stackUnderflow => True
  | .unimplementedOpcode op => decodeWord op = .unimplemented
  | .memoryOutOfRange addr => 4096 ≤ addr
  | .romTooLarge len => 3584 < len
  | .keyIndexOutOfRange k => 15 < k.toNat

/-- The invariants of R38: the font and the reserved region of memory as RESET left them, every live stack entry at
most 4096, `PC` at most 4350 (`SP` at most 16 holds by type); with them `fault`, a latched fatal condition is legal
(R170, the spec's decision D4), and `memWf`, the canonical form of the list that holds the memory, which is no part of
R38 but the model's DESIGN CHOICE (log 13). -/
structure State.Inv (s : State) : Prop where
  memWf : Memory.wf s.env.font s.mem = true
  font : ∀ a, (h : a < 80) → s.byteAt a = s.env.font[a]
  reserved : ∀ a, 80 ≤ a → a < 512 → s.byteAt a = 0
  stack : ∀ k, (h : k < 16) → k < s.sp.val → s.stack[k].toNat ≤ 4096
  pc : s.pc.toNat ≤ 4350
  fault : ∀ f, s.fault = some f → f.Legal

/-! ### Encodings -/

/-- The word `w`, and no other, decodes to `i`. -/
def IsEncodedBy (i : Instr) (w : Nat) : Prop := ∀ op : Word, decodeWord op = .instr i ↔ op.toNat = w

/-! ### Frames -/

/-- Every byte of memory reads as before. -/
def BytesKept (s t : State) : Prop := ∀ a, t.byteAt a = s.byteAt a

/-- Only `PC` and the registers listed may differ: every other register, every other field and every byte of
memory is unchanged. -/
def OnlyRegs (xs : List Reg) (s t : State) : Prop :=
  (∀ r, r ∉ xs → t.reg r = s.reg r) ∧ BytesKept s t ∧ { t with pc := s.pc, v := s.v } = s

/-! ### The instructions that write each piece of state (R92) -/

/-- The destination `V[x]` an instruction writes as an ordinary register (R21). -/
def ordinaryDestination : Instr → Option Reg
  | .ldImm x _ => some x
  | .addImm x _ => some x
  | .ldReg x _ => some x
  | .orReg x _ => some x
  | .andReg x _ => some x
  | .xorReg x _ => some x
  | .rnd x _ => some x
  | .ldVxDT x => some x
  | .ldVxK x => some x
  | _ => none

/-- The six instructions that write `VF` as a flag (R21's table). -/
def writesFlag : Instr → Bool
  | .addReg _ _ => true
  | .sub _ _ => true
  | .shr _ _ => true
  | .subn _ _ => true
  | .shl _ _ => true
  | .drw _ _ _ => true
  | _ => false

/-- The destination `V[x]` of an instruction that writes a flag as well. -/
def resultDestination : Instr → Option Reg
  | .addReg x _ => some x
  | .sub x _ => some x
  | .shr x _ => some x
  | .subn x _ => some x
  | .shl x _ => some x
  | _ => none

/-- "No instruction but DXYN and 00E0 changes `FB`" (R92). -/
def writesFb : Instr → Bool
  | .cls => true
  | .drw _ _ _ => true
  | _ => false

/-- "None but 2NNN and 00EE changes `SP` or `STACK`" (R92). -/
def usesStack : Instr → Bool
  | .call _ => true
  | .ret => true
  | _ => false

/-- ANNN, FX1E and FX29 write `I` (R25). -/
def writesI : Instr → Bool
  | .ldI _ => true
  | .addI _ => true
  | .ldF _ => true
  | _ => false

/-- FX15 writes `DT` (R25). -/
def writesDt : Instr → Bool
  | .ldDT _ => true
  | _ => false

/-- FX18 writes `ST` (R25). -/
def writesSt : Instr → Bool
  | .ldST _ => true
  | _ => false

/-- CXNN alone reads the random byte (R92, R122). -/
def readsRandom : Instr → Bool
  | .rnd _ _ => true
  | _ => false

/-- How each instruction leaves `PC`, where `s` is the state the TICK began in and it raises nothing (R23). -/
def pcAfter (s : State) : Instr → Word
  | .ret => if h : 0 < s.sp.val then s.stack[s.sp.val - 1] else s.pc
  | .jp nnn => BitVec.ofNat 16 nnn.toNat
  | .call nnn => BitVec.ofNat 16 nnn.toNat
  | .jpV0 nnn => BitVec.ofNat 16 ((s.reg 0).toNat + nnn.toNat)
  | .seImm x nn => if s.reg x = nn then s.pc + 4 else s.pc + 2
  | .sneImm x nn => if s.reg x = nn then s.pc + 2 else s.pc + 4
  | .seReg x y => if s.reg x = s.reg y then s.pc + 4 else s.pc + 2
  | .sneReg x y => if s.reg x = s.reg y then s.pc + 2 else s.pc + 4
  | .skp x => if s.key.toList[(s.reg x).toNat]? = some true then s.pc + 4 else s.pc + 2
  | .sknp x => if s.key.toList[(s.reg x).toNat]? = some true then s.pc + 2 else s.pc + 4
  | .ldVxK _ => if s.key.toList.any id then s.pc + 2 else s.pc + 4
  | _ => s.pc + 2

/-! ### Sprites -/

/-- A 1 bit of an `n`-row sprite with the given row bytes, drawn with its corner at `(vx, vy)`, lands on cell
`c`: column `b` of row `r`, column 0 being bit 7, both coordinates wrapping (R141). -/
def SpriteCovers (row : Nat → Byte) (vx vy n : Nat) (c : Cell) : Prop :=
  ∃ r b, r < n ∧ b < 8 ∧ (row r).getLsbD (7 - b) = true ∧
    c.val = (vx + b) % 64 + 64 * ((vy + r) % 32)

end Sys2Proof.Machine
end

