-- ==== Sys2Proof/Certificates/Slice0/Obligations.lean ====
section
/-! DEFINITION. The statements for the provers. Each follows a rule of spec/ named in its docstring. `s` is the
state a command begins in, `t` the state it leaves; `p` is `s.pc`. -/

open Sys2Proof Sys2Proof.Machine

/-! ### Encoding (30_encoding.md) -/

/-- Sample words of every family, from the encodings of R76 and the vectors A1 to A13 (tier 1). -/
def Obligations.SampleWordsDecode : Prop :=
  decodeWord 0x0000 = .instr .nop ∧
  decodeWord 0x00E0 = .instr .cls ∧
  decodeWord 0x1ABC = .instr (.jp 0xABC) ∧
  decodeWord 0x5AB0 = .instr (.seReg 10 11) ∧
  decodeWord 0x8AB7 = .instr (.subn 10 11) ∧
  decodeWord 0xA20A = .instr (.ldI 0x20A) ∧
  decodeWord 0xD125 = .instr (.drw 1 2 5) ∧
  decodeWord 0xEFA1 = .instr (.sknp 15) ∧
  decodeWord 0xF30A = .instr (.ldVxK 3) ∧
  decodeWord 0xF215 = .instr (.ldDT 2) ∧
  decodeWord 0xF033 = .unimplemented

/-- R74: a word that a row selects decodes to that row's instruction, a word that no row selects is
`Unimplemented`, and no word selects two rows (the last is the spec's own inference: "[derived: from the match and
mask columns of rule R76]"). -/
def Obligations.DecodeFollowsTheOneSelectedRow : Prop :=
  (∀ (op : Word) (r : Row), r ∈ opcodeTable → op &&& r.mask = r.pattern → decodeWord op = .instr (r.build op)) ∧
  (∀ op : Word, (∀ r ∈ opcodeTable, op &&& r.mask ≠ r.pattern) → decodeWord op = .unimplemented) ∧
  (∀ (op : Word) (j k : Nat) (r q : Row), opcodeTable[j]? = some r → opcodeTable[k]? = some q →
    op &&& r.mask = r.pattern → op &&& q.mask = q.pattern → j = k)

/-- Every well-formed instruction's word decodes to it: no bit of an operand is dropped. -/
def Obligations.DecodeOfEncode : Prop :=
  ∀ i : Instr, i.wellFormed = true → decodeWord (encode i) = .instr i

/-- Every word that decodes does so to a well-formed instruction; encoding it gives the word back. -/
def Obligations.EncodeOfDecode : Prop :=
  ∀ (op : Word) (i : Instr), decodeWord op = .instr i → i.wellFormed = true ∧ encode i = op

/-- R78: the illegal words are exactly the sets (a) to (f), and a TICK that fetches one raises
`UnimplementedOpcode` with the word, changing nothing else (the spec's decision D3; a next state, log 1). -/
def Obligations.IllegalWordsAreTheSixSets : Prop :=
  (∀ op : Word, decodeWord op = .unimplemented ↔
    (op.toNat / 4096 = 0 ∧ op.toNat ≠ 0 ∧ op.toNat ≠ 0xE0 ∧ op.toNat ≠ 0xEE) ∨
    (op.toNat / 4096 = 5 ∧ op.toNat % 16 ≠ 0) ∨
    (op.toNat / 4096 = 8 ∧ 8 ≤ op.toNat % 16 ∧ op.toNat % 16 ≠ 14) ∨
    (op.toNat / 4096 = 9 ∧ op.toNat % 16 ≠ 0) ∨
    (op.toNat / 4096 = 14 ∧ op.toNat % 256 ≠ 0x9E ∧ op.toNat % 256 ≠ 0xA1) ∨
    (op.toNat / 4096 = 15 ∧ op.toNat % 256 ≠ 0x07 ∧ op.toNat % 256 ≠ 0x0A ∧ op.toNat % 256 ≠ 0x15 ∧
      op.toNat % 256 ≠ 0x18 ∧ op.toNat % 256 ≠ 0x1E ∧ op.toNat % 256 ≠ 0x29)) ∧
  (∀ (s : State) (op : Word), s.Running → s.fetch = .ok op → decodeWord op = .unimplemented →
    perform .tick s = .next { s with fault := some (.unimplementedOpcode op) })

/-! ### The engine (40_engine_and_control.md, 20_memory.md) -/

/-- R53: the fetch faults at the first of `PC`, `PC + 1` out of range, and otherwise reads the word big-endian. That
the address is not reduced before the test is the spec's decision D14. -/
def Obligations.FetchIsBigEndianAndChecked : Prop :=
  ∀ s : State,
    (4096 ≤ s.pc.toNat → s.fetch = .error (.memoryOutOfRange s.pc.toNat)) ∧
    (s.pc.toNat = 4095 → s.fetch = .error (.memoryOutOfRange 4096)) ∧
    (s.pc.toNat ≤ 4094 → ∃ op, s.fetch = .ok op ∧
      op.toNat = 256 * (s.byteAt s.pc.toNat).toNat + (s.byteAt (s.pc.toNat + 1)).toNat)

/-- When the bytes at `PC` decode to an instruction, the step of a running machine whose host has nothing
pending is exactly `exec` of it at that state: nothing is done around `exec`, whose meanings make the fetch's
advance themselves (log 7). With a TICK pending, the step is `exec` at the state in which it is no longer pending. -/
def Obligations.StepRunsTheDecodedInstruction : Prop :=
  ∀ (s : State) (op : Word) (i : Instr), s.Running → s.fetch = .ok op → decodeWord op = .instr i →
    (s.Idle → step s = exec i s) ∧
    (∀ rest, s.env.pending = .tick :: rest → step s = exec i { s with env := { s.env with pending := rest } })

/-- R90: a TICK is without effect on a stopped machine; otherwise fetch, decode and execute, the first that
raises ending it with `FAULT` set. The latch and its precise entry are the spec's decision D3, its being a next state
is the model's DESIGN CHOICE (log 1). -/
def Obligations.TickFetchesDecodesExecutes : Prop :=
  ∀ s : State,
    (s.fault ≠ none → perform .tick s = .next s) ∧
    (s.Running → ∀ f, s.fetch = .error f → perform .tick s = .next { s with fault := some f }) ∧
    (s.Running → ∀ op, s.fetch = .ok op →
      (decodeWord op = .unimplemented →
        perform .tick s = .next { s with fault := some (.unimplementedOpcode op) }) ∧
      (∀ i, decodeWord op = .instr i → perform .tick s = exec i s))

/-- The step performs the host's first pending command, and a TICK when none is pending; it always answers a
next state: the model never stops. Both are the model's DESIGN CHOICES: the queue of commands (log 5), and that a fatal
condition, the spec's latch `FAULT` of its decision D3, is a next state and no `Outcome.fault` (log 1). -/
def Obligations.StepPerformsTheNextCommand : Prop :=
  ∀ s : State,
    (s.Idle → step s = perform .tick s) ∧
    (∀ c rest, s.env.pending = c :: rest → step s = perform c { s with env := { s.env with pending := rest } }) ∧
    (∃ t, step s = .next t)

/-- R176: after a command that raises, every piece of state but `FAULT` has the value it had before the
command, the fetch's advance of `PC` included (the spec's decision D3; that a raise is a next state is the model's DESIGN CHOICE,
log 1). -/
def Obligations.FatalConditionsArePrecise : Prop :=
  ∀ (c : Command) (s t : State) (f : Fault), s.Running → perform c s = .next t → t.fault = some f →
    t = { s with fault := some f }

/-- R177: while `FAULT` is not `None`, every command but RESET changes nothing and returns nothing; only RESET
clears `FAULT` (the spec's decisions D3 and, for DISPLAY, D30; that a stopped machine still answers next states is the
model's DESIGN CHOICE, log 1). -/
def Obligations.StoppedMachineStaysStopped : Prop :=
  ∀ (s : State) (f : Fault), s.fault = some f →
    (∀ c, c ≠ .reset → perform c s = .next s) ∧ ∃ t, perform .reset s = .next t ∧ t.Running

/-- R171: which command can raise which condition. -/
def Obligations.CommandsRaiseOnlyTheirConditions : Prop :=
  ∀ (c : Command) (s t : State) (f : Fault), s.Running → perform c s = .next t → t.fault = some f →
    (∃ bytes len, c = .load bytes ∧ f = .romTooLarge len) ∨
    (c = .tick ∧ ∀ len, f ≠ .romTooLarge len)

/-- R175, its last clause, the spec's own inference "[derived: from 40_engine_and_control.md rule R90 and the
instruction rules]": the one condition each instruction can raise. The test of the stack's depth is the spec's decision
D5, the key condition its decision D11. -/
def Obligations.InstructionsRaiseOnlyTheirCondition : Prop :=
  ∀ (i : Instr) (s t : State) (f : Fault), s.Running → exec i s = .next t → t.fault = some f →
    (∃ nnn, i = .call nnn ∧ s.sp.val = 16 ∧ f = .stackOverflow (s.pc + 2)) ∨
    (i = .ret ∧ s.sp.val = 0 ∧ f = .stackUnderflow) ∨
    (∃ x, (i = .skp x ∨ i = .sknp x) ∧ 15 < (s.reg x).toNat ∧ f = .keyIndexOutOfRange (s.reg x)) ∨
    (∃ x y n r, i = .drw x y n ∧ r < n ∧ 4096 ≤ s.i.toNat + r ∧ f = .memoryOutOfRange (s.i.toNat + r))

/-- Every step, of whatever command, keeps the invariants. Of the six parts of `State.Inv`, `font`, `reserved`, `stack`
and `pc` are R38, the spec's own inference "[derived: from rules R24, R28, R29, R36 and the instruction rules]";
`fault` is R170's information column, its decision D4; `memWf`, the canonical form of the list that holds the memory, is
the model's DESIGN CHOICE (log 13) and no part of R38. -/
def Obligations.StepKeepsInvariants : Prop :=
  ∀ s t : State, s.Inv → step s = .next t → t.Inv

/-- The state after reset has the invariants of `State.Inv`: those of R38 (the spec's own inference), the legality of
`FAULT` (R170, the spec's decision D4), and the canonical form of the memory list, which is the model's DESIGN CHOICE
(log 13). -/
def Obligations.ResetHasInvariants : Prop := State.reset.Inv

/-- R60: no instruction writes `MEM`; the instructions write only `V`, `PC`, `I`, `SP`, `STACK`, `DT`, `ST` and
`FB` (and `FAULT`, by a raise). What is not state of the block, `env`, is left aside. -/
def Obligations.NoInstructionWritesMemory : Prop :=
  ∀ (i : Instr) (s t : State), exec i s = .next t →
    BytesKept s t ∧
    { t with v := s.v, pc := s.pc, i := s.i, sp := s.sp, stack := s.stack, dt := s.dt, st := s.st, fb := s.fb,
             fault := s.fault, env := s.env } = s

/-- R92, the frame rule over all instructions: which instructions change each piece of state. (That `env`, the
model's own, changes under CXNN alone is log 2.) -/
def Obligations.OnlyTheNamedInstructionsWriteEachPart : Prop :=
  ∀ (i : Instr) (s t : State), exec i s = .next t →
    (writesFb i = false → t.fb = s.fb) ∧
    (usesStack i = false → t.sp = s.sp ∧ t.stack = s.stack) ∧
    (writesI i = false → t.i = s.i) ∧
    (writesDt i = false → t.dt = s.dt) ∧
    (writesSt i = false → t.st = s.st) ∧
    (readsRandom i = false → t.env = s.env) ∧
    t.key = s.key ∧ t.mem = s.mem ∧
    (∀ r, ordinaryDestination i ≠ some r → resultDestination i ≠ some r → (writesFlag i = true → r ≠ 15) →
      t.reg r = s.reg r)

/-- R23: how each instruction leaves `PC`, when the TICK raises nothing. The row of FX0A follows the spec's decision
D7, the unreduced sum of BNNN its decision D26. -/
def Obligations.PcAfterEachInstruction : Prop :=
  ∀ (i : Instr) (s t : State), s.Running → exec i s = .next t → t.Running → t.pc = pcAfter s i

/-- R21: the six flag-writing instructions leave 0 or 1 in `VF` on every execution, and no other instruction
writes `VF` unless it is its destination. -/
def Obligations.VfIsWrittenAsFlagOrDestinationOnly : Prop :=
  ∀ (i : Instr) (s t : State), s.Running → exec i s = .next t → t.Running →
    (writesFlag i = true → t.reg 15 = 0 ∨ t.reg 15 = 1) ∧
    (writesFlag i = false → ordinaryDestination i ≠ some 15 → t.reg 15 = s.reg 15)

/-- `rnd` is read only by CXNN (R92): any other instruction does the same whatever the random bytes to come, that is,
wherever the model's count of draws stands (log 2). -/
def Obligations.RandomByteReachesOnlyRnd : Prop :=
  ∀ (i : Instr) (s t : State) (d : Nat), readsRandom i = false → exec i s = .next t →
    exec i { s with env := { s.env with draws := d } } = .next { t with env := { t.env with draws := d } }

/-- No instruction reads `ST` (R31): two states that differ only in `ST` are led to states that differ only in
`ST`. -/
def Obligations.SoundTimerIsReadByNoInstruction : Prop :=
  ∀ (i : Instr) (s t : State) (b : Byte), writesSt i = false → exec i s = .next t →
    exec i { s with st := b } = .next { t with st := b }

/-! ### Control transfer (40_engine_and_control.md) -/

/-- R94: NOP changes nothing but `PC`; its word is 0x0000 alone. -/
def Obligations.NopOnlyAdvances : Prop :=
  (∀ s : State, ∃ t, exec .nop s = .next t ∧ t.pc = s.pc + 2 ∧ OnlyRegs [] s t) ∧ IsEncodedBy .nop 0x0000

/-- R95: RET takes the newest live entry as `PC` and lowers `SP`; with no entry it raises `StackUnderflow`. That the
popped slot keeps its value is the spec's decision D23 (in the model, log 9); that the raise changes nothing but `FAULT`
is its decision D3 (R176), and that it is a next state is log 1. -/
def Obligations.RetPopsTheNewestEntry : Prop :=
  (∀ (s : State) (k : Nat) (h : k < 16), s.sp.val = k + 1 →
    ∃ t, exec .ret s = .next t ∧ t.pc = s.stack[k] ∧ t.sp.val = k ∧ (∀ r, t.reg r = s.reg r) ∧ BytesKept s t ∧
      { t with pc := s.pc, sp := s.sp } = s) ∧
  (∀ s : State, s.sp.val = 0 → exec .ret s = .next { s with fault := some .stackUnderflow }) ∧
  IsEncodedBy .ret 0x00EE

/-- R96: JP sets `PC` to its 12-bit target, zero-extended. -/
def Obligations.JumpSetsPc : Prop :=
  ∀ nnn : Target,
    (∀ s : State, ∃ t, exec (.jp nnn) s = .next t ∧ t.pc.toNat = nnn.toNat ∧ OnlyRegs [] s t) ∧
    IsEncodedBy (.jp nnn) (0x1000 + nnn.toNat)

/-- R97 (with R28): CALL pushes `p + 2` and jumps; with 16 live entries it raises `StackOverflow(p + 2)`. That the test
is on the current depth is the spec's decision D5; that the raise changes nothing but `FAULT` is its decision D3 (R176),
and that it is a next state is log 1. -/
def Obligations.CallPushesTheReturnAddress : Prop :=
  ∀ nnn : Target,
    (∀ (s : State) (h : s.sp.val < 16), ∃ t, exec (.call nnn) s = .next t ∧
      t.pc.toNat = nnn.toNat ∧ t.sp.val = s.sp.val + 1 ∧ t.stack[s.sp.val] = s.pc + 2 ∧
      (∀ j, (hj : j < 16) → j ≠ s.sp.val → t.stack[j] = s.stack[j]) ∧
      (∀ r, t.reg r = s.reg r) ∧ BytesKept s t ∧
      { t with pc := s.pc, sp := s.sp, stack := s.stack } = s) ∧
    (∀ s : State, s.sp.val = 16 →
      exec (.call nnn) s = .next { s with fault := some (.stackOverflow (s.pc + 2)) }) ∧
    IsEncodedBy (.call nnn) (0x2000 + nnn.toNat)

/-- R98: JP V0 sets `PC` to the sum of `V0` and the target; that it is not reduced is the spec's decision D26. -/
def Obligations.JumpV0AddsRegisterZero : Prop :=
  ∀ nnn : Target,
    (∀ s : State, ∃ t, exec (.jpV0 nnn) s = .next t ∧ t.pc.toNat = (s.reg 0).toNat + nnn.toNat ∧
      OnlyRegs [] s t) ∧
    IsEncodedBy (.jpV0 nnn) (0xB000 + nnn.toNat)

/-- R29, the LIFO law: a RET after a CALL, with the stack as the CALL left it and whatever else has changed,
returns to the instruction after the CALL and gives the stack pointer back. -/
def Obligations.RetAfterCallReturnsBehindTheCall : Prop :=
  ∀ (s : State) (nnn : Target), s.sp.val < 16 → ∃ t, exec (.call nnn) s = .next t ∧
    ∀ t' : State, t'.sp = t.sp → t'.stack = t.stack → ∃ u, exec .ret t' = .next u ∧ u.pc = s.pc + 2 ∧ u.sp = s.sp

/-- R96 (and R196, the spec's decision D22): a self-jump, the word `0x1000 | a` at `a`, is a fixed point of TICK,
here of the step that performs one (log 5). -/
def Obligations.SelfJumpIsAFixedPoint : Prop :=
  ∀ (s : State) (a : Nat), a ≤ 4094 → s.Running → s.Idle → s.pc.toNat = a →
    256 * (s.byteAt a).toNat + (s.byteAt (a + 1)).toNat = 0x1000 + a → step s = .next s

/-! ### Skips (41_skips.md, 45_keypad.md) -/

/-- R100 to R103: a skip leaves `PC = p + 4` when its condition holds and `p + 2` when not, and
changes nothing else. -/
def Obligations.RegisterSkips : Prop :=
  (∀ (x : Reg) (nn : Byte),
    (∀ s : State, ∃ t, exec (.seImm x nn) s = .next t ∧
      t.pc = (if s.reg x = nn then s.pc + 4 else s.pc + 2) ∧ OnlyRegs [] s t) ∧
    (∀ s : State, ∃ t, exec (.sneImm x nn) s = .next t ∧
      t.pc = (if s.reg x ≠ nn then s.pc + 4 else s.pc + 2) ∧ OnlyRegs [] s t) ∧
    IsEncodedBy (.seImm x nn) (0x3000 + 256 * x.val + nn.toNat) ∧
    IsEncodedBy (.sneImm x nn) (0x4000 + 256 * x.val + nn.toNat)) ∧
  (∀ x y : Reg,
    (∀ s : State, ∃ t, exec (.seReg x y) s = .next t ∧
      t.pc = (if s.reg x = s.reg y then s.pc + 4 else s.pc + 2) ∧ OnlyRegs [] s t) ∧
    (∀ s : State, ∃ t, exec (.sneReg x y) s = .next t ∧
      t.pc = (if s.reg x ≠ s.reg y then s.pc + 4 else s.pc + 2) ∧ OnlyRegs [] s t) ∧
    IsEncodedBy (.seReg x y) (0x5000 + 256 * x.val + 16 * y.val) ∧
    IsEncodedBy (.sneReg x y) (0x9000 + 256 * x.val + 16 * y.val))

/-- R151, R152: SKP and SKNP skip on the key that `V[x]`, at most 15, names; that a greater value is fatal is the
spec's decision D11, that the raise changes nothing but `FAULT` its decision D3 (a next state, log 1). -/
def Obligations.KeySkips : Prop :=
  ∀ x : Reg,
    (∀ (s : State) (k : Nat) (h : k < 16), (s.reg x).toNat = k →
      (∃ t, exec (.skp x) s = .next t ∧
        t.pc = (if s.key[k] = true then s.pc + 4 else s.pc + 2) ∧ OnlyRegs [] s t) ∧
      (∃ t, exec (.sknp x) s = .next t ∧
        t.pc = (if s.key[k] = true then s.pc + 2 else s.pc + 4) ∧ OnlyRegs [] s t)) ∧
    (∀ s : State, 15 < (s.reg x).toNat →
      exec (.skp x) s = .next { s with fault := some (.keyIndexOutOfRange (s.reg x)) } ∧
      exec (.sknp x) s = .next { s with fault := some (.keyIndexOutOfRange (s.reg x)) }) ∧
    IsEncodedBy (.skp x) (0xE09E + 256 * x.val) ∧
    IsEncodedBy (.sknp x) (0xE0A1 + 256 * x.val)

/-- R153: LD Vx, K reads the lowest pressed key, or skips the next instruction when no key is pressed (the direction
of the skip is the spec's decision D7). -/
def Obligations.ReadKeyTakesTheLowestOrSkips : Prop :=
  ∀ x : Reg,
    (∀ (s : State) (k : Nat) (h : k < 16), s.key[k] = true →
      (∀ j, (hj : j < k) → s.key[j]'(by omega) = false) →
      ∃ t, exec (.ldVxK x) s = .next t ∧ (t.reg x).toNat = k ∧ t.pc = s.pc + 2 ∧ OnlyRegs [x] s t) ∧
    (∀ s : State, (∀ k, (h : k < 16) → s.key[k] = false) →
      ∃ t, exec (.ldVxK x) s = .next t ∧ t.pc = s.pc + 4 ∧ OnlyRegs [] s t) ∧
    IsEncodedBy (.ldVxK x) (0xF00A + 256 * x.val)

/-! ### Register load, arithmetic, logic, shift, random (42_register_alu.md) -/

/-- R111, R121: the two loads of a register. -/
def Obligations.RegisterLoads : Prop :=
  (∀ (x : Reg) (nn : Byte),
    (∀ s : State, ∃ t, exec (.ldImm x nn) s = .next t ∧ t.reg x = nn ∧ t.pc = s.pc + 2 ∧ OnlyRegs [x] s t) ∧
    IsEncodedBy (.ldImm x nn) (0x6000 + 256 * x.val + nn.toNat)) ∧
  (∀ x y : Reg,
    (∀ s : State, ∃ t, exec (.ldReg x y) s = .next t ∧ t.reg x = s.reg y ∧ t.pc = s.pc + 2 ∧ OnlyRegs [x] s t) ∧
    IsEncodedBy (.ldReg x y) (0x8000 + 256 * x.val + 16 * y.val))

/-- R112: ADD Vx, nn adds modulo 256 and writes no flag. -/
def Obligations.AddImmediateWrapsWithoutFlag : Prop :=
  ∀ (x : Reg) (nn : Byte),
    (∀ s : State, ∃ t, exec (.addImm x nn) s = .next t ∧
      (t.reg x).toNat = ((s.reg x).toNat + nn.toNat) % 256 ∧ t.pc = s.pc + 2 ∧ OnlyRegs [x] s t) ∧
    IsEncodedBy (.addImm x nn) (0x7000 + 256 * x.val + nn.toNat)

/-- R113: OR bit by bit, the same under both settings of `BITOPS_ALL_OR`, and no flag. -/
def Obligations.OrCombinesBits : Prop :=
  ∀ x y : Reg,
    (∀ s : State, ∃ t, exec (.orReg x y) s = .next t ∧
      (∀ b, (t.reg x).getLsbD b = ((s.reg x).getLsbD b || (s.reg y).getLsbD b)) ∧
      t.pc = s.pc + 2 ∧ OnlyRegs [x] s t) ∧
    IsEncodedBy (.orReg x y) (0x8001 + 256 * x.val + 16 * y.val)

/-- R114, R115: AND and XOR bit by bit, and no flag; that both compute OR when `BITOPS_ALL_OR` is set, and that it is
an option, is the spec's decision D6. -/
def Obligations.AndXorCombineBits : Prop :=
  ∀ x y : Reg,
    (∀ s : State, ∃ t, exec (.andReg x y) s = .next t ∧
      (∀ b, (t.reg x).getLsbD b = (if s.env.bitopsAllOr then (s.reg x).getLsbD b || (s.reg y).getLsbD b
        else (s.reg x).getLsbD b && (s.reg y).getLsbD b)) ∧
      t.pc = s.pc + 2 ∧ OnlyRegs [x] s t) ∧
    (∀ s : State, ∃ t, exec (.xorReg x y) s = .next t ∧
      (∀ b, (t.reg x).getLsbD b = (if s.env.bitopsAllOr then (s.reg x).getLsbD b || (s.reg y).getLsbD b
        else (s.reg x).getLsbD b ^^ (s.reg y).getLsbD b)) ∧
      t.pc = s.pc + 2 ∧ OnlyRegs [x] s t) ∧
    IsEncodedBy (.andReg x y) (0x8002 + 256 * x.val + 16 * y.val) ∧
    IsEncodedBy (.xorReg x y) (0x8003 + 256 * x.val + 16 * y.val)

/-- R116: ADD Vx, Vy writes the sum modulo 256 and the carry; that the carry is written last, so that it is what `VF`
holds when `x = 15`, is the spec's decision D9 (R110). -/
def Obligations.AddWritesSumAndCarry : Prop :=
  ∀ x y : Reg,
    (∀ s : State, ∃ t, exec (.addReg x y) s = .next t ∧
      (x ≠ 15 → (t.reg x).toNat = ((s.reg x).toNat + (s.reg y).toNat) % 256) ∧
      (t.reg 15).toNat = (if 255 < (s.reg x).toNat + (s.reg y).toNat then 1 else 0) ∧
      t.pc = s.pc + 2 ∧ OnlyRegs [x, 15] s t) ∧
    IsEncodedBy (.addReg x y) (0x8004 + 256 * x.val + 16 * y.val)

/-- R117, R119: SUB and SUBN write the difference modulo 256 and the negated borrow; that the flag is written last is
the spec's decision D9 (R110). -/
def Obligations.SubtractionsWriteDifferenceAndNotBorrow : Prop :=
  ∀ x y : Reg,
    (∀ s : State, ∃ t, exec (.sub x y) s = .next t ∧
      (x ≠ 15 → (t.reg x).toNat = ((s.reg x).toNat + 256 - (s.reg y).toNat) % 256) ∧
      (t.reg 15).toNat = (if (s.reg x).toNat < (s.reg y).toNat then 0 else 1) ∧
      t.pc = s.pc + 2 ∧ OnlyRegs [x, 15] s t) ∧
    (∀ s : State, ∃ t, exec (.subn x y) s = .next t ∧
      (x ≠ 15 → (t.reg x).toNat = ((s.reg y).toNat + 256 - (s.reg x).toNat) % 256) ∧
      (t.reg 15).toNat = (if (s.reg y).toNat < (s.reg x).toNat then 0 else 1) ∧
      t.pc = s.pc + 2 ∧ OnlyRegs [x, 15] s t) ∧
    IsEncodedBy (.sub x y) (0x8005 + 256 * x.val + 16 * y.val) ∧
    IsEncodedBy (.subn x y) (0x8007 + 256 * x.val + 16 * y.val)

/-- R118, R120 (and R77): the shifts move `V[x]` by one bit, fill with 0 and put the bit shifted out in `VF`; they
ignore `y` (the spec's decision D28), and the flag is written last (its decision D9). -/
def Obligations.ShiftsMoveOneBitIntoVf : Prop :=
  ∀ x y : Reg,
    (∀ s : State, ∃ t, exec (.shr x y) s = .next t ∧
      (x ≠ 15 → (t.reg x).toNat = (s.reg x).toNat / 2) ∧
      (t.reg 15).toNat = (s.reg x).toNat % 2 ∧
      t.pc = s.pc + 2 ∧ OnlyRegs [x, 15] s t) ∧
    (∀ s : State, ∃ t, exec (.shl x y) s = .next t ∧
      (x ≠ 15 → (t.reg x).toNat = 2 * (s.reg x).toNat % 256) ∧
      (t.reg 15).toNat = (s.reg x).toNat / 128 ∧
      t.pc = s.pc + 2 ∧ OnlyRegs [x, 15] s t) ∧
    IsEncodedBy (.shr x y) (0x8006 + 256 * x.val + 16 * y.val) ∧
    IsEncodedBy (.shl x y) (0x800E + 256 * x.val + 16 * y.val)

/-- RND writes the random byte masked by `nn`, whatever that byte is. The byte is the model's free value
`Config.rnd`, and the count of draws that makes the next one fresh is the model's (log 2). -/
def Obligations.RandomByteIsMasked : Prop :=
  ∀ (x : Reg) (nn : Byte),
    (∀ s : State, ∃ t, exec (.rnd x nn) s = .next t ∧
      (∀ b, (t.reg x).getLsbD b = ((Config.rnd s.env.draws).getLsbD b && nn.getLsbD b)) ∧
      t.pc = s.pc + 2 ∧ (∀ r, r ≠ x → t.reg r = s.reg r) ∧ BytesKept s t ∧
      { t with pc := s.pc, v := s.v, env := s.env } = s ∧
      t.env = { s.env with draws := s.env.draws + 1 }) ∧
    IsEncodedBy (.rnd x nn) (0xC000 + 256 * x.val + nn.toNat)

/-! ### The index register (43_index.md) -/

/-- R130: LD I sets the index register to the zero-extended immediate; no flag, no other change. -/
def Obligations.LoadIndexSetsI : Prop :=
  ∀ nnn : Target,
    (∀ s : State, ∃ t, exec (.ldI nnn) s = .next t ∧ t.i.toNat = nnn.toNat ∧ t.pc = s.pc + 2 ∧
      (∀ r, t.reg r = s.reg r) ∧ BytesKept s t ∧ { t with pc := s.pc, i := s.i } = s) ∧
    IsEncodedBy (.ldI nnn) (0xA000 + nnn.toNat)

/-- R131, R132: ADD I wraps at 16 bits (the spec's decision D26), LD F takes five times the whole of `V[x]` (its
decision D10); no flag, no other change. -/
def Obligations.IndexArithmetic : Prop :=
  ∀ x : Reg,
    (∀ s : State, ∃ t, exec (.addI x) s = .next t ∧
      t.i.toNat = (s.i.toNat + (s.reg x).toNat) % 65536 ∧ t.pc = s.pc + 2 ∧
      (∀ r, t.reg r = s.reg r) ∧ BytesKept s t ∧ { t with pc := s.pc, i := s.i } = s) ∧
    (∀ s : State, ∃ t, exec (.ldF x) s = .next t ∧
      t.i.toNat = (s.reg x).toNat * 5 ∧ t.pc = s.pc + 2 ∧
      (∀ r, t.reg r = s.reg r) ∧ BytesKept s t ∧ { t with pc := s.pc, i := s.i } = s) ∧
    IsEncodedBy (.addI x) (0xF01E + 256 * x.val) ∧
    IsEncodedBy (.ldF x) (0xF029 + 256 * x.val)

/-! ### The framebuffer (44_display.md) -/

/-- R140: CLS makes every cell false and changes nothing else. -/
def Obligations.ClearScreenClearsEveryCell : Prop :=
  (∀ s : State, ∃ t, exec .cls s = .next t ∧ (∀ c : Cell, t.fb[c.val] = false) ∧ t.pc = s.pc + 2 ∧
    (∀ r, t.reg r = s.reg r) ∧ BytesKept s t ∧ { t with pc := s.pc, fb := s.fb } = s) ∧
  IsEncodedBy .cls 0x00E0

/-- R141: when its rows are in range, DRW sets exactly the cells its 1 bits land on, keeps the rest, and puts
in `VF` whether one of them was already true; otherwise it raises at the first row out of range, drawing
nothing. The row bytes and coordinates are those on entry. That all rows are checked before anything is drawn is the
spec's decision D13, that no pixel is turned off its decision D8, that a raise changes nothing but `FAULT` its decision
D3 (a next state, log 1). -/
def Obligations.DrawSetsCoveredCells : Prop :=
  ∀ (x y : Reg) (n : Nat), n < 16 →
    (∀ s : State, n = 0 ∨ s.i.toNat + n ≤ 4096 → ∃ t, exec (.drw x y n) s = .next t ∧
      (∀ c : Cell, t.fb[c.val] = true ↔
        s.fb[c.val] = true ∨
          SpriteCovers (fun r => s.byteAt (s.i.toNat + r)) (s.reg x).toNat (s.reg y).toNat n c) ∧
      ((∃ c : Cell, s.fb[c.val] = true ∧
          SpriteCovers (fun r => s.byteAt (s.i.toNat + r)) (s.reg x).toNat (s.reg y).toNat n c) →
        t.reg 15 = 1) ∧
      ((∀ c : Cell, s.fb[c.val] = true →
          ¬ SpriteCovers (fun r => s.byteAt (s.i.toNat + r)) (s.reg x).toNat (s.reg y).toNat n c) →
        t.reg 15 = 0) ∧
      t.pc = s.pc + 2 ∧ (∀ r, r ≠ 15 → t.reg r = s.reg r) ∧ BytesKept s t ∧
      { t with pc := s.pc, v := s.v, fb := s.fb } = s) ∧
    (∀ (s : State) (r : Nat), r < n → 4096 ≤ s.i.toNat + r → (∀ q, q < r → s.i.toNat + q < 4096) →
      exec (.drw x y n) s = .next { s with fault := some (.memoryOutOfRange (s.i.toNat + r)) }) ∧
    IsEncodedBy (.drw x y n) (0xD000 + 256 * x.val + 16 * y.val + n)

/-- R142 (a), the spec's decision D8, and (c), (d), its own inferences "[derived: from the pseudocode of rule R141]":
DRW never turns a cell off; the cells of one sprite are pairwise distinct; with `n = 0`
it reads nothing, even past the end of memory, draws nothing and writes 0 to `VF`. -/
def Obligations.DrawCornerCases : Prop :=
  (∀ (x y : Reg) (n : Nat) (s t : State), exec (.drw x y n) s = .next t →
    ∀ c : Cell, s.fb[c.val] = true → t.fb[c.val] = true) ∧
  (∀ (vx vy : Nat) (rows : List Byte), rows.length ≤ 15 → (spriteCells vx vy 0 rows).Nodup) ∧
  (∀ (x y : Reg) (s : State), ∃ t, exec (.drw x y 0) s = .next t ∧ t.fb = s.fb ∧ t.reg 15 = 0)

/-- The source's collision property (95_test_vectors.md S6) for every sprite: drawn a second time at the same
place it changes no cell, and `VF` is 1 exactly when the sprite has a 1 bit. -/
def Obligations.DrawingTwiceCollides : Prop :=
  ∀ (x y : Reg) (n : Nat) (s : State), n < 16 → x ≠ 15 → y ≠ 15 → n = 0 ∨ s.i.toNat + n ≤ 4096 →
    ∃ t u, exec (.drw x y n) s = .next t ∧ exec (.drw x y n) t = .next u ∧ u.fb = t.fb ∧
      (u.reg 15 = 1 ↔ ∃ r b, r < n ∧ b < 8 ∧ (s.byteAt (s.i.toNat + r)).getLsbD b = true)

/-- R143: where the font stands at 0 to 79, LD F with a digit `d` and then DRW of 5 rows draws the glyph
`FONT[5 * d]` to `FONT[5 * d + 4]`, whatever the 80 bytes are (the spec's own inference "[derived: from rule R141 and
43_index.md rule R132]"). -/
def Obligations.FontGlyphIsDrawn : Prop :=
  ∀ (x a b : Reg) (s : State) (d : Nat), d < 16 → (s.reg x).toNat = d →
    (∀ k, (h : k < 80) → s.byteAt k = s.env.font[k]) →
    ∃ t u, exec (.ldF x) s = .next t ∧ exec (.drw a b 5) t = .next u ∧
      ∀ c : Cell, u.fb[c.val] = true ↔
        s.fb[c.val] = true ∨
          SpriteCovers (fun r => s.env.font.toList.getD (5 * d + r) 0) (s.reg a).toNat (s.reg b).toNat 5 c

/-! ### Timers and commands (45_keypad.md, 46_timers.md, 70_reset_and_hazards.md) -/

/-- R160 to R162: the three timer instructions. -/
def Obligations.TimerInstructions : Prop :=
  ∀ x : Reg,
    (∀ s : State, ∃ t, exec (.ldVxDT x) s = .next t ∧ t.reg x = s.dt ∧ t.pc = s.pc + 2 ∧ OnlyRegs [x] s t) ∧
    (∀ s : State, ∃ t, exec (.ldDT x) s = .next t ∧ t.dt = s.reg x ∧ t.pc = s.pc + 2 ∧
      (∀ r, t.reg r = s.reg r) ∧ BytesKept s t ∧ { t with pc := s.pc, dt := s.dt } = s) ∧
    (∀ s : State, ∃ t, exec (.ldST x) s = .next t ∧ t.st = s.reg x ∧ t.pc = s.pc + 2 ∧
      (∀ r, t.reg r = s.reg r) ∧ BytesKept s t ∧ { t with pc := s.pc, st := s.st } = s) ∧
    IsEncodedBy (.ldVxDT x) (0xF007 + 256 * x.val) ∧
    IsEncodedBy (.ldDT x) (0xF015 + 256 * x.val) ∧
    IsEncodedBy (.ldST x) (0xF018 + 256 * x.val)

/-- R164: TICK_TIMERS lowers each timer by 1 down to 0 and returns whether `ST` was 1; nothing else changes.
(That it returns the cue is the spec's decision D20; it is appended to `env.replies`, log 6.) -/
def Obligations.TickTimersCountsDownToZero : Prop :=
  ∀ s : State,
    (s.Running → ∃ t, perform .tickTimers s = .next t ∧
      t.dt.toNat = s.dt.toNat - 1 ∧ t.st.toNat = s.st.toNat - 1 ∧
      t.env = { s.env with replies := s.env.replies ++ [.toneCue (decide (s.st.toNat = 1))] } ∧
      { t with dt := s.dt, st := s.st, env := s.env } = s) ∧
    (s.fault ≠ none → perform .tickTimers s = .next s)

/-- R165 (c), the spec's own inference "[derived: from rule R164]": after `k` TICK_TIMERS commands and nothing between,
`DT` is `max(0, v - k)`, and `ST` likewise. (The commands stand in the model's queue, log 5.) -/
def Obligations.TimersAfterManyTicks : Prop :=
  ∀ (k : Nat) (s : State), s.Running → s.env.pending = List.replicate k .tickTimers →
    ∃ t, Sys2Proof.core.run k s = .next t ∧ State.dt t = BitVec.ofNat 8 (s.dt.toNat - k) ∧
      State.st t = BitVec.ofNat 8 (s.st.toNat - k) ∧ State.pc t = s.pc ∧ State.fault t = none

/-- R154: KEYPRESS sets the one key flag and nothing else; it is without effect on a stopped machine. (A key number is
0 to 15 by type, the spec's decision D12.) -/
def Obligations.KeypressSetsOneFlag : Prop :=
  ∀ (k : Key) (p : Bool) (s : State),
    (s.Running → ∃ t, perform (.keypress k p) s = .next t ∧ t.key[k.val] = p ∧
      (∀ j : Key, j ≠ k → t.key[j.val] = s.key[j.val]) ∧ { t with key := s.key } = s) ∧
    (s.fault ≠ none → perform (.keypress k p) s = .next s)

/-- R144: DISPLAY returns the 2048 cells in index order and changes no state; it returns nothing on a stopped
machine. (What it returns is appended to `env.replies`, log 6.) -/
def Obligations.DisplayReturnsTheCells : Prop :=
  ∀ s : State,
    (s.Running → ∃ t cells, perform .display s = .next t ∧
      t.env = { s.env with replies := s.env.replies ++ [.cells cells] } ∧ { t with env := s.env } = s ∧
      ∀ px py, (hx : px < 64) → (hy : py < 32) → cells[px + 64 * py] = s.fb[px + 64 * py]) ∧
    (s.fault ≠ none → perform .display s = .next s)

/-- R192: LOAD copies the image to 0x200 upward and changes nothing else, or raises `RomTooLarge` and copies
nothing; it is without effect on a stopped machine (the spec's decision D3; the raise is a next state, log 1). -/
def Obligations.LoadCopiesTheImageOrRaises : Prop :=
  ∀ (bytes : List Byte) (s : State),
    (s.Running → bytes.length ≤ 3584 → ∃ t, perform (.load bytes) s = .next t ∧
      (∀ j, (h : j < bytes.length) → t.byteAt (0x200 + j) = bytes[j]) ∧
      (∀ a, a < 0x200 ∨ 0x200 + bytes.length ≤ a → t.byteAt a = s.byteAt a) ∧ { t with mem := s.mem } = s) ∧
    (s.Running → 3584 < bytes.length →
      perform (.load bytes) s = .next { s with fault := some (.romTooLarge bytes.length) }) ∧
    (s.fault ≠ none → perform (.load bytes) s = .next s)

/-- R62, the spec's own inference "[derived: from rules R53, R59 and R60]": a LOAD is seen in full by the next fetch;
with `PC` inside the image, the word fetched is the image's. -/
def Obligations.FetchSeesTheLoadedImage : Prop :=
  ∀ (bytes : List Byte) (s : State) (j : Nat) (h : j + 1 < bytes.length), s.Running → bytes.length ≤ 3584 →
    s.pc.toNat = 0x200 + j →
    ∃ t op, perform (.load bytes) s = .next t ∧ t.fetch = .ok op ∧
      op.toNat = 256 * (bytes[j]).toNat + (bytes[j + 1]).toNat

/-- R190: RESET gives every piece of state its reset value, from every state, stopped or not; the
configuration `FONT` and `BITOPS_ALL_OR` stays (log 10). `I <- 0` is the spec's decision D18, `FAULT` its decision
D3. That the model's read of a byte is 0 above 4095 too, where no access reads, is log 13. -/
def Obligations.ResetGivesEveryPieceItsValue : Prop :=
  ∀ s : State, ∃ t, perform .reset s = .next t ∧
    (∀ a, (h : a < 80) → t.byteAt a = s.env.font[a]) ∧ (∀ a, 80 ≤ a → t.byteAt a = 0) ∧
    (∀ r, t.reg r = 0) ∧ (∀ j, (h : j < 16) → t.stack[j] = 0) ∧ (∀ k, (h : k < 16) → t.key[k] = false) ∧
    (∀ c : Cell, t.fb[c.val] = false) ∧
    t.pc = 0x200 ∧ t.i = 0 ∧ t.sp = 0 ∧ t.dt = 0 ∧ t.st = 0 ∧ t.fault = none ∧
    t.env.font = s.env.font ∧ t.env.bitopsAllOr = s.env.bitopsAllOr

/-- R36: the values of the state after reset. `I` at 0 is the spec's decision D18, `FAULT` its decision D3; the font
bytes are those of the parameter `FONT`, whose value here is PRESUMED (log 3) and not stated. That the model's read of a
byte is 0 above 4095 too, where no access reads, is log 13. -/
def Obligations.ResetState : Prop :=
  (∀ r, State.reset.reg r = 0) ∧ State.reset.pc = 0x200 ∧ State.reset.i = 0 ∧ State.reset.sp = 0 ∧
  (∀ j, (h : j < 16) → State.reset.stack[j] = 0) ∧
  (∀ a, (h : a < 80) → State.reset.byteAt a = State.reset.env.font[a]) ∧
  (∀ a, 80 ≤ a → State.reset.byteAt a = 0) ∧
  State.reset.dt = 0 ∧ State.reset.st = 0 ∧ (∀ k, (h : k < 16) → State.reset.key[k] = false) ∧
  (∀ c : Cell, State.reset.fb[c.val] = false) ∧ State.reset.fault = none

/-- An instruction placed for the next fetch is the one the next step runs, from every state (log 12). -/
def Obligations.PlacedWordIsTheNextInstruction : Prop :=
  ∀ (s : State) (w : Nat) (i : Instr), w < 65536 → decodeTableWord 16 w = some i →
    step (s.withFetchWord 16 w) = exec i (s.withFetchWord 16 w)
end

