-- ==== Sys2Proof/Laws/State.lean ====
section
/-! SUPPORT. One lemma per field per update of the state, so that no proof unfolds a record update; and what each
update does to the two readers `reg` and `byteAt`. -/

namespace Sys2Proof.Machine

/-! ### `State.setPc` -/
@[simp] theorem State.setPc_v (s : State) (w : Word) : (s.setPc w).v = s.v := rfl
@[simp] theorem State.setPc_pc (s : State) (w : Word) : (s.setPc w).pc = w := rfl
@[simp] theorem State.setPc_i (s : State) (w : Word) : (s.setPc w).i = s.i := rfl
@[simp] theorem State.setPc_sp (s : State) (w : Word) : (s.setPc w).sp = s.sp := rfl
@[simp] theorem State.setPc_stack (s : State) (w : Word) : (s.setPc w).stack = s.stack := rfl
@[simp] theorem State.setPc_mem (s : State) (w : Word) : (s.setPc w).mem = s.mem := rfl
@[simp] theorem State.setPc_dt (s : State) (w : Word) : (s.setPc w).dt = s.dt := rfl
@[simp] theorem State.setPc_st (s : State) (w : Word) : (s.setPc w).st = s.st := rfl
@[simp] theorem State.setPc_key (s : State) (w : Word) : (s.setPc w).key = s.key := rfl
@[simp] theorem State.setPc_fb (s : State) (w : Word) : (s.setPc w).fb = s.fb := rfl
@[simp] theorem State.setPc_fault (s : State) (w : Word) : (s.setPc w).fault = s.fault := rfl
@[simp] theorem State.setPc_env (s : State) (w : Word) : (s.setPc w).env = s.env := rfl
@[simp] theorem State.setPc_reg (s : State) (w : Word) (r : Reg) : (s.setPc w).reg r = s.reg r := rfl
@[simp] theorem State.setPc_byteAt (s : State) (w : Word) (n : Nat) : (s.setPc w).byteAt n = s.byteAt n := rfl

/-! ### `State.advance` -/
@[simp] theorem State.advance_v (s : State) : (s.advance).v = s.v := rfl
@[simp] theorem State.advance_pc (s : State) : (s.advance).pc = s.pc + 2 := rfl
@[simp] theorem State.advance_i (s : State) : (s.advance).i = s.i := rfl
@[simp] theorem State.advance_sp (s : State) : (s.advance).sp = s.sp := rfl
@[simp] theorem State.advance_stack (s : State) : (s.advance).stack = s.stack := rfl
@[simp] theorem State.advance_mem (s : State) : (s.advance).mem = s.mem := rfl
@[simp] theorem State.advance_dt (s : State) : (s.advance).dt = s.dt := rfl
@[simp] theorem State.advance_st (s : State) : (s.advance).st = s.st := rfl
@[simp] theorem State.advance_key (s : State) : (s.advance).key = s.key := rfl
@[simp] theorem State.advance_fb (s : State) : (s.advance).fb = s.fb := rfl
@[simp] theorem State.advance_fault (s : State) : (s.advance).fault = s.fault := rfl
@[simp] theorem State.advance_env (s : State) : (s.advance).env = s.env := rfl
@[simp] theorem State.advance_reg (s : State) (r : Reg) : (s.advance).reg r = s.reg r := rfl
@[simp] theorem State.advance_byteAt (s : State) (n : Nat) : (s.advance).byteAt n = s.byteAt n := rfl

/-! ### `State.skipIf` -/
@[simp] theorem State.skipIf_v (s : State) (c : Bool) : (s.skipIf c).v = s.v := rfl
@[simp] theorem State.skipIf_pc (s : State) (c : Bool) : (s.skipIf c).pc = if c then s.pc + 2 else s.pc := rfl
@[simp] theorem State.skipIf_i (s : State) (c : Bool) : (s.skipIf c).i = s.i := rfl
@[simp] theorem State.skipIf_sp (s : State) (c : Bool) : (s.skipIf c).sp = s.sp := rfl
@[simp] theorem State.skipIf_stack (s : State) (c : Bool) : (s.skipIf c).stack = s.stack := rfl
@[simp] theorem State.skipIf_mem (s : State) (c : Bool) : (s.skipIf c).mem = s.mem := rfl
@[simp] theorem State.skipIf_dt (s : State) (c : Bool) : (s.skipIf c).dt = s.dt := rfl
@[simp] theorem State.skipIf_st (s : State) (c : Bool) : (s.skipIf c).st = s.st := rfl
@[simp] theorem State.skipIf_key (s : State) (c : Bool) : (s.skipIf c).key = s.key := rfl
@[simp] theorem State.skipIf_fb (s : State) (c : Bool) : (s.skipIf c).fb = s.fb := rfl
@[simp] theorem State.skipIf_fault (s : State) (c : Bool) : (s.skipIf c).fault = s.fault := rfl
@[simp] theorem State.skipIf_env (s : State) (c : Bool) : (s.skipIf c).env = s.env := rfl
@[simp] theorem State.skipIf_reg (s : State) (c : Bool) (r : Reg) : (s.skipIf c).reg r = s.reg r := rfl
@[simp] theorem State.skipIf_byteAt (s : State) (c : Bool) (n : Nat) : (s.skipIf c).byteAt n = s.byteAt n := rfl

/-! ### `State.setReg` -/
@[simp] theorem State.setReg_v (s : State) (x : Reg) (b : Byte) : (s.setReg x b).v = s.v.set x.val b := rfl
@[simp] theorem State.setReg_pc (s : State) (x : Reg) (b : Byte) : (s.setReg x b).pc = s.pc := rfl
@[simp] theorem State.setReg_i (s : State) (x : Reg) (b : Byte) : (s.setReg x b).i = s.i := rfl
@[simp] theorem State.setReg_sp (s : State) (x : Reg) (b : Byte) : (s.setReg x b).sp = s.sp := rfl
@[simp] theorem State.setReg_stack (s : State) (x : Reg) (b : Byte) : (s.setReg x b).stack = s.stack := rfl
@[simp] theorem State.setReg_mem (s : State) (x : Reg) (b : Byte) : (s.setReg x b).mem = s.mem := rfl
@[simp] theorem State.setReg_dt (s : State) (x : Reg) (b : Byte) : (s.setReg x b).dt = s.dt := rfl
@[simp] theorem State.setReg_st (s : State) (x : Reg) (b : Byte) : (s.setReg x b).st = s.st := rfl
@[simp] theorem State.setReg_key (s : State) (x : Reg) (b : Byte) : (s.setReg x b).key = s.key := rfl
@[simp] theorem State.setReg_fb (s : State) (x : Reg) (b : Byte) : (s.setReg x b).fb = s.fb := rfl
@[simp] theorem State.setReg_fault (s : State) (x : Reg) (b : Byte) : (s.setReg x b).fault = s.fault := rfl
@[simp] theorem State.setReg_env (s : State) (x : Reg) (b : Byte) : (s.setReg x b).env = s.env := rfl
@[simp] theorem State.setReg_byteAt (s : State) (x : Reg) (b : Byte) (n : Nat) : (s.setReg x b).byteAt n = s.byteAt n := rfl

/-! ### `State.setI` -/
@[simp] theorem State.setI_v (s : State) (w : Word) : (s.setI w).v = s.v := rfl
@[simp] theorem State.setI_pc (s : State) (w : Word) : (s.setI w).pc = s.pc := rfl
@[simp] theorem State.setI_i (s : State) (w : Word) : (s.setI w).i = w := rfl
@[simp] theorem State.setI_sp (s : State) (w : Word) : (s.setI w).sp = s.sp := rfl
@[simp] theorem State.setI_stack (s : State) (w : Word) : (s.setI w).stack = s.stack := rfl
@[simp] theorem State.setI_mem (s : State) (w : Word) : (s.setI w).mem = s.mem := rfl
@[simp] theorem State.setI_dt (s : State) (w : Word) : (s.setI w).dt = s.dt := rfl
@[simp] theorem State.setI_st (s : State) (w : Word) : (s.setI w).st = s.st := rfl
@[simp] theorem State.setI_key (s : State) (w : Word) : (s.setI w).key = s.key := rfl
@[simp] theorem State.setI_fb (s : State) (w : Word) : (s.setI w).fb = s.fb := rfl
@[simp] theorem State.setI_fault (s : State) (w : Word) : (s.setI w).fault = s.fault := rfl
@[simp] theorem State.setI_env (s : State) (w : Word) : (s.setI w).env = s.env := rfl
@[simp] theorem State.setI_reg (s : State) (w : Word) (r : Reg) : (s.setI w).reg r = s.reg r := rfl
@[simp] theorem State.setI_byteAt (s : State) (w : Word) (n : Nat) : (s.setI w).byteAt n = s.byteAt n := rfl

/-! ### `State.setDt` -/
@[simp] theorem State.setDt_v (s : State) (b : Byte) : (s.setDt b).v = s.v := rfl
@[simp] theorem State.setDt_pc (s : State) (b : Byte) : (s.setDt b).pc = s.pc := rfl
@[simp] theorem State.setDt_i (s : State) (b : Byte) : (s.setDt b).i = s.i := rfl
@[simp] theorem State.setDt_sp (s : State) (b : Byte) : (s.setDt b).sp = s.sp := rfl
@[simp] theorem State.setDt_stack (s : State) (b : Byte) : (s.setDt b).stack = s.stack := rfl
@[simp] theorem State.setDt_mem (s : State) (b : Byte) : (s.setDt b).mem = s.mem := rfl
@[simp] theorem State.setDt_dt (s : State) (b : Byte) : (s.setDt b).dt = b := rfl
@[simp] theorem State.setDt_st (s : State) (b : Byte) : (s.setDt b).st = s.st := rfl
@[simp] theorem State.setDt_key (s : State) (b : Byte) : (s.setDt b).key = s.key := rfl
@[simp] theorem State.setDt_fb (s : State) (b : Byte) : (s.setDt b).fb = s.fb := rfl
@[simp] theorem State.setDt_fault (s : State) (b : Byte) : (s.setDt b).fault = s.fault := rfl
@[simp] theorem State.setDt_env (s : State) (b : Byte) : (s.setDt b).env = s.env := rfl
@[simp] theorem State.setDt_reg (s : State) (b : Byte) (r : Reg) : (s.setDt b).reg r = s.reg r := rfl
@[simp] theorem State.setDt_byteAt (s : State) (b : Byte) (n : Nat) : (s.setDt b).byteAt n = s.byteAt n := rfl

/-! ### `State.setSt` -/
@[simp] theorem State.setSt_v (s : State) (b : Byte) : (s.setSt b).v = s.v := rfl
@[simp] theorem State.setSt_pc (s : State) (b : Byte) : (s.setSt b).pc = s.pc := rfl
@[simp] theorem State.setSt_i (s : State) (b : Byte) : (s.setSt b).i = s.i := rfl
@[simp] theorem State.setSt_sp (s : State) (b : Byte) : (s.setSt b).sp = s.sp := rfl
@[simp] theorem State.setSt_stack (s : State) (b : Byte) : (s.setSt b).stack = s.stack := rfl
@[simp] theorem State.setSt_mem (s : State) (b : Byte) : (s.setSt b).mem = s.mem := rfl
@[simp] theorem State.setSt_dt (s : State) (b : Byte) : (s.setSt b).dt = s.dt := rfl
@[simp] theorem State.setSt_st (s : State) (b : Byte) : (s.setSt b).st = b := rfl
@[simp] theorem State.setSt_key (s : State) (b : Byte) : (s.setSt b).key = s.key := rfl
@[simp] theorem State.setSt_fb (s : State) (b : Byte) : (s.setSt b).fb = s.fb := rfl
@[simp] theorem State.setSt_fault (s : State) (b : Byte) : (s.setSt b).fault = s.fault := rfl
@[simp] theorem State.setSt_env (s : State) (b : Byte) : (s.setSt b).env = s.env := rfl
@[simp] theorem State.setSt_reg (s : State) (b : Byte) (r : Reg) : (s.setSt b).reg r = s.reg r := rfl
@[simp] theorem State.setSt_byteAt (s : State) (b : Byte) (n : Nat) : (s.setSt b).byteAt n = s.byteAt n := rfl

/-! ### `State.setFb` -/
@[simp] theorem State.setFb_v (s : State) (fb : Framebuffer) : (s.setFb fb).v = s.v := rfl
@[simp] theorem State.setFb_pc (s : State) (fb : Framebuffer) : (s.setFb fb).pc = s.pc := rfl
@[simp] theorem State.setFb_i (s : State) (fb : Framebuffer) : (s.setFb fb).i = s.i := rfl
@[simp] theorem State.setFb_sp (s : State) (fb : Framebuffer) : (s.setFb fb).sp = s.sp := rfl
@[simp] theorem State.setFb_stack (s : State) (fb : Framebuffer) : (s.setFb fb).stack = s.stack := rfl
@[simp] theorem State.setFb_mem (s : State) (fb : Framebuffer) : (s.setFb fb).mem = s.mem := rfl
@[simp] theorem State.setFb_dt (s : State) (fb : Framebuffer) : (s.setFb fb).dt = s.dt := rfl
@[simp] theorem State.setFb_st (s : State) (fb : Framebuffer) : (s.setFb fb).st = s.st := rfl
@[simp] theorem State.setFb_key (s : State) (fb : Framebuffer) : (s.setFb fb).key = s.key := rfl
@[simp] theorem State.setFb_fb (s : State) (fb : Framebuffer) : (s.setFb fb).fb = fb := rfl
@[simp] theorem State.setFb_fault (s : State) (fb : Framebuffer) : (s.setFb fb).fault = s.fault := rfl
@[simp] theorem State.setFb_env (s : State) (fb : Framebuffer) : (s.setFb fb).env = s.env := rfl
@[simp] theorem State.setFb_reg (s : State) (fb : Framebuffer) (r : Reg) : (s.setFb fb).reg r = s.reg r := rfl
@[simp] theorem State.setFb_byteAt (s : State) (fb : Framebuffer) (n : Nat) : (s.setFb fb).byteAt n = s.byteAt n := rfl

/-! ### `State.setKey` -/
@[simp] theorem State.setKey_v (s : State) (k : Key) (p : Bool) : (s.setKey k p).v = s.v := rfl
@[simp] theorem State.setKey_pc (s : State) (k : Key) (p : Bool) : (s.setKey k p).pc = s.pc := rfl
@[simp] theorem State.setKey_i (s : State) (k : Key) (p : Bool) : (s.setKey k p).i = s.i := rfl
@[simp] theorem State.setKey_sp (s : State) (k : Key) (p : Bool) : (s.setKey k p).sp = s.sp := rfl
@[simp] theorem State.setKey_stack (s : State) (k : Key) (p : Bool) : (s.setKey k p).stack = s.stack := rfl
@[simp] theorem State.setKey_mem (s : State) (k : Key) (p : Bool) : (s.setKey k p).mem = s.mem := rfl
@[simp] theorem State.setKey_dt (s : State) (k : Key) (p : Bool) : (s.setKey k p).dt = s.dt := rfl
@[simp] theorem State.setKey_st (s : State) (k : Key) (p : Bool) : (s.setKey k p).st = s.st := rfl
@[simp] theorem State.setKey_key (s : State) (k : Key) (p : Bool) : (s.setKey k p).key = s.key.set k.val p := rfl
@[simp] theorem State.setKey_fb (s : State) (k : Key) (p : Bool) : (s.setKey k p).fb = s.fb := rfl
@[simp] theorem State.setKey_fault (s : State) (k : Key) (p : Bool) : (s.setKey k p).fault = s.fault := rfl
@[simp] theorem State.setKey_env (s : State) (k : Key) (p : Bool) : (s.setKey k p).env = s.env := rfl
@[simp] theorem State.setKey_reg (s : State) (k : Key) (p : Bool) (r : Reg) : (s.setKey k p).reg r = s.reg r := rfl
@[simp] theorem State.setKey_byteAt (s : State) (k : Key) (p : Bool) (n : Nat) : (s.setKey k p).byteAt n = s.byteAt n := rfl

/-! ### `State.writeMem` -/
@[simp] theorem State.writeMem_v (s : State) (a : Nat) (u : Byte) : (s.writeMem a u).v = s.v := rfl
@[simp] theorem State.writeMem_pc (s : State) (a : Nat) (u : Byte) : (s.writeMem a u).pc = s.pc := rfl
@[simp] theorem State.writeMem_i (s : State) (a : Nat) (u : Byte) : (s.writeMem a u).i = s.i := rfl
@[simp] theorem State.writeMem_sp (s : State) (a : Nat) (u : Byte) : (s.writeMem a u).sp = s.sp := rfl
@[simp] theorem State.writeMem_stack (s : State) (a : Nat) (u : Byte) : (s.writeMem a u).stack = s.stack := rfl
@[simp] theorem State.writeMem_mem (s : State) (a : Nat) (u : Byte) : (s.writeMem a u).mem = Memory.write s.env.font s.mem a u := rfl
@[simp] theorem State.writeMem_dt (s : State) (a : Nat) (u : Byte) : (s.writeMem a u).dt = s.dt := rfl
@[simp] theorem State.writeMem_st (s : State) (a : Nat) (u : Byte) : (s.writeMem a u).st = s.st := rfl
@[simp] theorem State.writeMem_key (s : State) (a : Nat) (u : Byte) : (s.writeMem a u).key = s.key := rfl
@[simp] theorem State.writeMem_fb (s : State) (a : Nat) (u : Byte) : (s.writeMem a u).fb = s.fb := rfl
@[simp] theorem State.writeMem_fault (s : State) (a : Nat) (u : Byte) : (s.writeMem a u).fault = s.fault := rfl
@[simp] theorem State.writeMem_env (s : State) (a : Nat) (u : Byte) : (s.writeMem a u).env = s.env := rfl
@[simp] theorem State.writeMem_reg (s : State) (a : Nat) (u : Byte) (r : Reg) : (s.writeMem a u).reg r = s.reg r := rfl

/-! ### `State.drawn` -/
@[simp] theorem State.drawn_v (s : State) : (s.drawn).v = s.v := rfl
@[simp] theorem State.drawn_pc (s : State) : (s.drawn).pc = s.pc := rfl
@[simp] theorem State.drawn_i (s : State) : (s.drawn).i = s.i := rfl
@[simp] theorem State.drawn_sp (s : State) : (s.drawn).sp = s.sp := rfl
@[simp] theorem State.drawn_stack (s : State) : (s.drawn).stack = s.stack := rfl
@[simp] theorem State.drawn_mem (s : State) : (s.drawn).mem = s.mem := rfl
@[simp] theorem State.drawn_dt (s : State) : (s.drawn).dt = s.dt := rfl
@[simp] theorem State.drawn_st (s : State) : (s.drawn).st = s.st := rfl
@[simp] theorem State.drawn_key (s : State) : (s.drawn).key = s.key := rfl
@[simp] theorem State.drawn_fb (s : State) : (s.drawn).fb = s.fb := rfl
@[simp] theorem State.drawn_fault (s : State) : (s.drawn).fault = s.fault := rfl
@[simp] theorem State.drawn_env (s : State) : (s.drawn).env = { s.env with draws := s.env.draws + 1 } := rfl
@[simp] theorem State.drawn_reg (s : State) (r : Reg) : (s.drawn).reg r = s.reg r := rfl
@[simp] theorem State.drawn_byteAt (s : State) (n : Nat) : (s.drawn).byteAt n = s.byteAt n := rfl

/-! ### `State.raise` -/
@[simp] theorem State.raise_v (s : State) (f : Fault) : (s.raise f).v = s.v := rfl
@[simp] theorem State.raise_pc (s : State) (f : Fault) : (s.raise f).pc = s.pc := rfl
@[simp] theorem State.raise_i (s : State) (f : Fault) : (s.raise f).i = s.i := rfl
@[simp] theorem State.raise_sp (s : State) (f : Fault) : (s.raise f).sp = s.sp := rfl
@[simp] theorem State.raise_stack (s : State) (f : Fault) : (s.raise f).stack = s.stack := rfl
@[simp] theorem State.raise_mem (s : State) (f : Fault) : (s.raise f).mem = s.mem := rfl
@[simp] theorem State.raise_dt (s : State) (f : Fault) : (s.raise f).dt = s.dt := rfl
@[simp] theorem State.raise_st (s : State) (f : Fault) : (s.raise f).st = s.st := rfl
@[simp] theorem State.raise_key (s : State) (f : Fault) : (s.raise f).key = s.key := rfl
@[simp] theorem State.raise_fb (s : State) (f : Fault) : (s.raise f).fb = s.fb := rfl
@[simp] theorem State.raise_fault (s : State) (f : Fault) : (s.raise f).fault = some f := rfl
@[simp] theorem State.raise_env (s : State) (f : Fault) : (s.raise f).env = s.env := rfl
@[simp] theorem State.raise_reg (s : State) (f : Fault) (r : Reg) : (s.raise f).reg r = s.reg r := rfl
@[simp] theorem State.raise_byteAt (s : State) (f : Fault) (n : Nat) : (s.raise f).byteAt n = s.byteAt n := rfl

/-! ### `State.dequeue` -/
@[simp] theorem State.dequeue_v (s : State) : (s.dequeue).v = s.v := rfl
@[simp] theorem State.dequeue_pc (s : State) : (s.dequeue).pc = s.pc := rfl
@[simp] theorem State.dequeue_i (s : State) : (s.dequeue).i = s.i := rfl
@[simp] theorem State.dequeue_sp (s : State) : (s.dequeue).sp = s.sp := rfl
@[simp] theorem State.dequeue_stack (s : State) : (s.dequeue).stack = s.stack := rfl
@[simp] theorem State.dequeue_mem (s : State) : (s.dequeue).mem = s.mem := rfl
@[simp] theorem State.dequeue_dt (s : State) : (s.dequeue).dt = s.dt := rfl
@[simp] theorem State.dequeue_st (s : State) : (s.dequeue).st = s.st := rfl
@[simp] theorem State.dequeue_key (s : State) : (s.dequeue).key = s.key := rfl
@[simp] theorem State.dequeue_fb (s : State) : (s.dequeue).fb = s.fb := rfl
@[simp] theorem State.dequeue_fault (s : State) : (s.dequeue).fault = s.fault := rfl
@[simp] theorem State.dequeue_env (s : State) : (s.dequeue).env = { s.env with pending := s.env.pending.tail } := rfl
@[simp] theorem State.dequeue_reg (s : State) (r : Reg) : (s.dequeue).reg r = s.reg r := rfl
@[simp] theorem State.dequeue_byteAt (s : State) (n : Nat) : (s.dequeue).byteAt n = s.byteAt n := rfl

/-! ### `State.reply` -/
@[simp] theorem State.reply_v (s : State) (a : Reply) : (s.reply a).v = s.v := rfl
@[simp] theorem State.reply_pc (s : State) (a : Reply) : (s.reply a).pc = s.pc := rfl
@[simp] theorem State.reply_i (s : State) (a : Reply) : (s.reply a).i = s.i := rfl
@[simp] theorem State.reply_sp (s : State) (a : Reply) : (s.reply a).sp = s.sp := rfl
@[simp] theorem State.reply_stack (s : State) (a : Reply) : (s.reply a).stack = s.stack := rfl
@[simp] theorem State.reply_mem (s : State) (a : Reply) : (s.reply a).mem = s.mem := rfl
@[simp] theorem State.reply_dt (s : State) (a : Reply) : (s.reply a).dt = s.dt := rfl
@[simp] theorem State.reply_st (s : State) (a : Reply) : (s.reply a).st = s.st := rfl
@[simp] theorem State.reply_key (s : State) (a : Reply) : (s.reply a).key = s.key := rfl
@[simp] theorem State.reply_fb (s : State) (a : Reply) : (s.reply a).fb = s.fb := rfl
@[simp] theorem State.reply_fault (s : State) (a : Reply) : (s.reply a).fault = s.fault := rfl
@[simp] theorem State.reply_env (s : State) (a : Reply) : (s.reply a).env = { s.env with replies := s.env.replies ++ [a] } := rfl
@[simp] theorem State.reply_reg (s : State) (a : Reply) (r : Reg) : (s.reply a).reg r = s.reg r := rfl
@[simp] theorem State.reply_byteAt (s : State) (a : Reply) (n : Nat) : (s.reply a).byteAt n = s.byteAt n := rfl

/-! ### `State.setFlag` -/
@[simp] theorem State.setFlag_v (s : State) (c : Bool) : (s.setFlag c).v = s.v.set 15 (flagByte c) := rfl
@[simp] theorem State.setFlag_pc (s : State) (c : Bool) : (s.setFlag c).pc = s.pc := rfl
@[simp] theorem State.setFlag_i (s : State) (c : Bool) : (s.setFlag c).i = s.i := rfl
@[simp] theorem State.setFlag_sp (s : State) (c : Bool) : (s.setFlag c).sp = s.sp := rfl
@[simp] theorem State.setFlag_stack (s : State) (c : Bool) : (s.setFlag c).stack = s.stack := rfl
@[simp] theorem State.setFlag_mem (s : State) (c : Bool) : (s.setFlag c).mem = s.mem := rfl
@[simp] theorem State.setFlag_dt (s : State) (c : Bool) : (s.setFlag c).dt = s.dt := rfl
@[simp] theorem State.setFlag_st (s : State) (c : Bool) : (s.setFlag c).st = s.st := rfl
@[simp] theorem State.setFlag_key (s : State) (c : Bool) : (s.setFlag c).key = s.key := rfl
@[simp] theorem State.setFlag_fb (s : State) (c : Bool) : (s.setFlag c).fb = s.fb := rfl
@[simp] theorem State.setFlag_fault (s : State) (c : Bool) : (s.setFlag c).fault = s.fault := rfl
@[simp] theorem State.setFlag_env (s : State) (c : Bool) : (s.setFlag c).env = s.env := rfl
@[simp] theorem State.setFlag_byteAt (s : State) (c : Bool) (n : Nat) : (s.setFlag c).byteAt n = s.byteAt n := rfl

/-! ### `State.setResult` -/
@[simp] theorem State.setResult_v (s : State) (x : Reg) (b : Byte) (c : Bool) : (s.setResult x b c).v = (s.v.set x.val b).set 15 (flagByte c) := rfl
@[simp] theorem State.setResult_pc (s : State) (x : Reg) (b : Byte) (c : Bool) : (s.setResult x b c).pc = s.pc := rfl
@[simp] theorem State.setResult_i (s : State) (x : Reg) (b : Byte) (c : Bool) : (s.setResult x b c).i = s.i := rfl
@[simp] theorem State.setResult_sp (s : State) (x : Reg) (b : Byte) (c : Bool) : (s.setResult x b c).sp = s.sp := rfl
@[simp] theorem State.setResult_stack (s : State) (x : Reg) (b : Byte) (c : Bool) : (s.setResult x b c).stack = s.stack := rfl
@[simp] theorem State.setResult_mem (s : State) (x : Reg) (b : Byte) (c : Bool) : (s.setResult x b c).mem = s.mem := rfl
@[simp] theorem State.setResult_dt (s : State) (x : Reg) (b : Byte) (c : Bool) : (s.setResult x b c).dt = s.dt := rfl
@[simp] theorem State.setResult_st (s : State) (x : Reg) (b : Byte) (c : Bool) : (s.setResult x b c).st = s.st := rfl
@[simp] theorem State.setResult_key (s : State) (x : Reg) (b : Byte) (c : Bool) : (s.setResult x b c).key = s.key := rfl
@[simp] theorem State.setResult_fb (s : State) (x : Reg) (b : Byte) (c : Bool) : (s.setResult x b c).fb = s.fb := rfl
@[simp] theorem State.setResult_fault (s : State) (x : Reg) (b : Byte) (c : Bool) : (s.setResult x b c).fault = s.fault := rfl
@[simp] theorem State.setResult_env (s : State) (x : Reg) (b : Byte) (c : Bool) : (s.setResult x b c).env = s.env := rfl
@[simp] theorem State.setResult_byteAt (s : State) (x : Reg) (b : Byte) (c : Bool) (n : Nat) : (s.setResult x b c).byteAt n = s.byteAt n := rfl

/-! ### `State.setDrawing` -/
@[simp] theorem State.setDrawing_v (s : State) (d : Framebuffer × Bool) : (s.setDrawing d).v = s.v.set 15 (flagByte d.2) := rfl
@[simp] theorem State.setDrawing_pc (s : State) (d : Framebuffer × Bool) : (s.setDrawing d).pc = s.pc := rfl
@[simp] theorem State.setDrawing_i (s : State) (d : Framebuffer × Bool) : (s.setDrawing d).i = s.i := rfl
@[simp] theorem State.setDrawing_sp (s : State) (d : Framebuffer × Bool) : (s.setDrawing d).sp = s.sp := rfl
@[simp] theorem State.setDrawing_stack (s : State) (d : Framebuffer × Bool) : (s.setDrawing d).stack = s.stack := rfl
@[simp] theorem State.setDrawing_mem (s : State) (d : Framebuffer × Bool) : (s.setDrawing d).mem = s.mem := rfl
@[simp] theorem State.setDrawing_dt (s : State) (d : Framebuffer × Bool) : (s.setDrawing d).dt = s.dt := rfl
@[simp] theorem State.setDrawing_st (s : State) (d : Framebuffer × Bool) : (s.setDrawing d).st = s.st := rfl
@[simp] theorem State.setDrawing_key (s : State) (d : Framebuffer × Bool) : (s.setDrawing d).key = s.key := rfl
@[simp] theorem State.setDrawing_fb (s : State) (d : Framebuffer × Bool) : (s.setDrawing d).fb = d.1 := rfl
@[simp] theorem State.setDrawing_fault (s : State) (d : Framebuffer × Bool) : (s.setDrawing d).fault = s.fault := rfl
@[simp] theorem State.setDrawing_env (s : State) (d : Framebuffer × Bool) : (s.setDrawing d).env = s.env := rfl
@[simp] theorem State.setDrawing_byteAt (s : State) (d : Framebuffer × Bool) (n : Nat) : (s.setDrawing d).byteAt n = s.byteAt n := rfl

/-! ### Registers after a write -/

/-- Reading a register after a write: the written value there, the old value elsewhere. -/
theorem State.setReg_reg (s : State) (x : Reg) (b : Byte) (r : Reg) :
    (s.setReg x b).reg r = if r = x then b else s.reg r := by
  simp only [State.reg, State.setReg_v, Vector.getElem_set, Fin.ext_iff, eq_comm]

@[simp] theorem State.setReg_reg_self (s : State) (x : Reg) (b : Byte) : (s.setReg x b).reg x = b := by
  simp [State.setReg_reg]

/-- `VF` after a flag write. -/
theorem State.setFlag_reg (s : State) (c : Bool) (r : Reg) :
    (s.setFlag c).reg r = if r = 15 then flagByte c else s.reg r :=
  State.setReg_reg s flagReg (flagByte c) r

/-- "The result is written first and the flag last" (R110): with `x = 15` the flag stands. -/
theorem State.setResult_reg (s : State) (x : Reg) (b : Byte) (c : Bool) (r : Reg) :
    (s.setResult x b c).reg r = if r = 15 then flagByte c else if r = x then b else s.reg r := by
  simp only [State.setResult, State.setFlag_reg, State.setReg_reg]

theorem State.setDrawing_reg (s : State) (d : Framebuffer × Bool) (r : Reg) :
    (s.setDrawing d).reg r = if r = 15 then flagByte d.2 else s.reg r :=
  State.setFlag_reg (s.setFb d.1) d.2 r

/-- A write of the same fields back gives the state: what two states with equal fields are. -/
theorem State.ext_fields {s t : State} (hv : t.v = s.v) (hpc : t.pc = s.pc) (hi : t.i = s.i) (hsp : t.sp = s.sp)
    (hstack : t.stack = s.stack) (hmem : t.mem = s.mem) (hdt : t.dt = s.dt) (hst : t.st = s.st)
    (hkey : t.key = s.key) (hfb : t.fb = s.fb) (hfault : t.fault = s.fault) (henv : t.env = s.env) : t = s := by
  cases s; cases t; simp_all

end Sys2Proof.Machine
end

