-- ==== Sys2Proof/Laws/Memory.lean ====
section
/-! SUPPORT. The laws of memory (20_memory.md R51, R52): a read after a write, and that every memory operation
keeps the canonical form. -/

namespace Sys2Proof.Machine

/-! ### Read after write -/

theorem Memory.read_erase (font : Vector Byte 80) (m : Memory) (a b : Nat) :
    Memory.read font (Memory.erase m a) b =
      if b = a then Memory.unlisted font b else Memory.read font m b := by
  induction m with
  | nil => simp [Memory.erase, Memory.read]
  | cons c m ih =>
    obtain ⟨k, u⟩ := c
    simp only [Memory.erase] at ih ⊢
    by_cases hk : k = a
    · subst hk
      simp only [List.filter_cons, bne_self_eq_false, Bool.false_eq_true, if_false, ih, Memory.read]
      split <;> rfl
    · simp only [List.filter_cons, bne_iff_ne, ne_eq, hk, not_false_eq_true, if_true, Memory.read, ih]
      by_cases hb : b = k
      · subst hb; simp [hk]
      · simp [hb]

theorem Memory.read_insert (font : Vector Byte 80) (m : Memory) (a : Nat) (u : Byte) (b : Nat)
    (h : ∀ c ∈ m, c.1 ≠ a) :
    Memory.read font (Memory.insert a u m) b = if b = a then u else Memory.read font m b := by
  induction m with
  | nil => rfl
  | cons c m ih =>
    obtain ⟨k, w⟩ := c
    have hk : k ≠ a := h (k, w) (by simp)
    have ih := ih fun c hc => h c (List.mem_cons_of_mem _ hc)
    simp only [Memory.insert]
    split
    · simp [Memory.read]
    · simp only [Memory.read, ih]
      by_cases hb : b = k
      · subst hb; simp [hk]
      · simp [hb]

theorem Memory.erase_ne (m : Memory) (a : Nat) : ∀ c ∈ Memory.erase m a, c.1 ≠ a := by
  simp [Memory.erase]

/-- Reading an address after a write: the written byte there, the old byte elsewhere. -/
theorem Memory.read_write (font : Vector Byte 80) (m : Memory) (a : Nat) (u : Byte) (b : Nat) :
    Memory.read font (Memory.write font m a u) b = if b = a then u else Memory.read font m b := by
  simp only [Memory.write]
  split
  · next h => subst h; simp only [Memory.read_erase]; split <;> simp_all
  · rw [Memory.read_insert _ _ _ _ _ (Memory.erase_ne m a), Memory.read_erase]; split <;> rfl

theorem State.byteAt_writeMem (s : State) (a : Nat) (u : Byte) (b : Nat) :
    (s.writeMem a u).byteAt b = if b = a then u else s.byteAt b :=
  Memory.read_write s.env.font s.mem a u b

/-! ### The canonical form -/

/-- A memory is canonical when its head is legal and below its tail, and its tail is canonical. -/
theorem Memory.wf_cons (font : Vector Byte 80) (a : Nat) (u : Byte) (m : Memory) :
    Memory.wf font ((a, u) :: m) = true ↔
      (a < 4096 ∧ u ≠ Memory.unlisted font a) ∧ (∀ c ∈ m, a < c.1) ∧ Memory.wf font m = true := by
  simp only [Memory.wf, Config.memSize, Bool.and_eq_true, decide_eq_true_eq, List.all_eq_true, and_assoc]

theorem Memory.wf_erase (font : Vector Byte 80) (m : Memory) (a : Nat) (h : Memory.wf font m = true) :
    Memory.wf font (Memory.erase m a) = true := by
  induction m with
  | nil => rfl
  | cons c m ih =>
    obtain ⟨k, u⟩ := c
    obtain ⟨h1, h2, h3⟩ := (Memory.wf_cons ..).1 h
    have ih := ih h3
    simp only [Memory.erase, List.filter_cons] at ih ⊢
    split
    · exact (Memory.wf_cons ..).2 ⟨h1, fun c hc => h2 c (List.mem_of_mem_filter hc), ih⟩
    · exact ih

theorem Memory.mem_insert (a : Nat) (u : Byte) (m : Memory) (c : Host.Cell) :
    c ∈ Memory.insert a u m ↔ c = (a, u) ∨ c ∈ m := by
  induction m with
  | nil => simp [Memory.insert]
  | cons d m ih =>
    obtain ⟨k, w⟩ := d
    simp only [Memory.insert]
    split <;> simp only [List.mem_cons, ih]
    tauto

theorem Memory.wf_insert (font : Vector Byte 80) (m : Memory) (a : Nat) (u : Byte)
    (h : Memory.wf font m = true) (ha : a < 4096) (hu : u ≠ Memory.unlisted font a)
    (hm : ∀ c ∈ m, c.1 ≠ a) : Memory.wf font (Memory.insert a u m) = true := by
  induction m with
  | nil => exact (Memory.wf_cons ..).2 ⟨⟨ha, hu⟩, by simp, rfl⟩
  | cons c m ih =>
    obtain ⟨k, w⟩ := c
    obtain ⟨h1, h2, h3⟩ := (Memory.wf_cons ..).1 h
    have hk : k ≠ a := hm (k, w) (by simp)
    simp only [Memory.insert]
    split
    · next hlt =>
      refine (Memory.wf_cons ..).2 ⟨⟨ha, hu⟩, fun c hc => ?_, h⟩
      rcases List.mem_cons.1 hc with rfl | hc
      · exact hlt
      · exact Nat.lt_trans hlt (h2 c hc)
    · next hlt =>
      refine (Memory.wf_cons ..).2 ⟨h1, fun c hc => ?_, ih h3 fun c hc => hm c (List.mem_cons_of_mem _ hc)⟩
      rcases (Memory.mem_insert ..).1 hc with rfl | hc
      · exact Nat.lt_of_le_of_ne (Nat.le_of_not_lt hlt) hk
      · exact h2 c hc

/-- A write of an existing address keeps the canonical form. -/
theorem Memory.wf_write (font : Vector Byte 80) (m : Memory) (a : Nat) (u : Byte)
    (h : Memory.wf font m = true) (ha : a < 4096) : Memory.wf font (Memory.write font m a u) = true := by
  simp only [Memory.write]
  split
  · exact Memory.wf_erase font m a h
  · next hu => exact Memory.wf_insert font _ a u (Memory.wf_erase font m a h) ha hu (Memory.erase_ne m a)

/-- The memory after reset is in canonical form: nothing is listed. -/
theorem State.reset_memWf : Memory.wf State.reset.env.font State.reset.mem = true := rfl

/-! ### Runs of bytes -/

@[simp] theorem State.writeBytes_nil (s : State) (a : Nat) : s.writeBytes a [] = s := rfl

@[simp] theorem State.writeBytes_cons (s : State) (a : Nat) (u : Byte) (us : List Byte) :
    s.writeBytes a (u :: us) = (s.writeMem a u).writeBytes (a + 1) us := rfl

/-- Writing bytes changes the memory only. -/
theorem State.writeBytes_frame (s : State) (a : Nat) (us : List Byte) :
    { s.writeBytes a us with mem := s.mem } = s := by
  induction us generalizing s a with
  | nil => rfl
  | cons u us ih => exact congrArg (fun t : State => { t with mem := s.mem }) (ih (s.writeMem a u) (a + 1))

/-! Writing bytes keeps every field but `mem`. -/

@[simp] theorem State.writeBytes_v (s : State) (a : Nat) (us : List Byte) : (s.writeBytes a us).v = s.v := by
  induction us generalizing s a with
  | nil => rfl
  | cons u us ih => exact ih (s.writeMem a u) (a + 1)

@[simp] theorem State.writeBytes_pc (s : State) (a : Nat) (us : List Byte) : (s.writeBytes a us).pc = s.pc := by
  induction us generalizing s a with
  | nil => rfl
  | cons u us ih => exact ih (s.writeMem a u) (a + 1)

@[simp] theorem State.writeBytes_i (s : State) (a : Nat) (us : List Byte) : (s.writeBytes a us).i = s.i := by
  induction us generalizing s a with
  | nil => rfl
  | cons u us ih => exact ih (s.writeMem a u) (a + 1)

@[simp] theorem State.writeBytes_sp (s : State) (a : Nat) (us : List Byte) : (s.writeBytes a us).sp = s.sp := by
  induction us generalizing s a with
  | nil => rfl
  | cons u us ih => exact ih (s.writeMem a u) (a + 1)

@[simp] theorem State.writeBytes_stack (s : State) (a : Nat) (us : List Byte) : (s.writeBytes a us).stack = s.stack := by
  induction us generalizing s a with
  | nil => rfl
  | cons u us ih => exact ih (s.writeMem a u) (a + 1)

@[simp] theorem State.writeBytes_dt (s : State) (a : Nat) (us : List Byte) : (s.writeBytes a us).dt = s.dt := by
  induction us generalizing s a with
  | nil => rfl
  | cons u us ih => exact ih (s.writeMem a u) (a + 1)

@[simp] theorem State.writeBytes_st (s : State) (a : Nat) (us : List Byte) : (s.writeBytes a us).st = s.st := by
  induction us generalizing s a with
  | nil => rfl
  | cons u us ih => exact ih (s.writeMem a u) (a + 1)

@[simp] theorem State.writeBytes_key (s : State) (a : Nat) (us : List Byte) : (s.writeBytes a us).key = s.key := by
  induction us generalizing s a with
  | nil => rfl
  | cons u us ih => exact ih (s.writeMem a u) (a + 1)

@[simp] theorem State.writeBytes_fb (s : State) (a : Nat) (us : List Byte) : (s.writeBytes a us).fb = s.fb := by
  induction us generalizing s a with
  | nil => rfl
  | cons u us ih => exact ih (s.writeMem a u) (a + 1)

@[simp] theorem State.writeBytes_fault (s : State) (a : Nat) (us : List Byte) : (s.writeBytes a us).fault = s.fault := by
  induction us generalizing s a with
  | nil => rfl
  | cons u us ih => exact ih (s.writeMem a u) (a + 1)

@[simp] theorem State.writeBytes_env (s : State) (a : Nat) (us : List Byte) : (s.writeBytes a us).env = s.env := by
  induction us generalizing s a with
  | nil => rfl
  | cons u us ih => exact ih (s.writeMem a u) (a + 1)

/-- Bytes outside the run written keep their value. -/
theorem State.byteAt_writeBytes_outside (s : State) (a : Nat) (us : List Byte) (b : Nat)
    (h : b < a ∨ a + us.length ≤ b) : (s.writeBytes a us).byteAt b = s.byteAt b := by
  induction us generalizing s a with
  | nil => rfl
  | cons u us ih =>
    simp only [List.length_cons] at h
    rw [State.writeBytes_cons, ih _ _ (by omega), State.byteAt_writeMem, if_neg (by omega)]

/-- Byte `j` of the run written stands at `a + j`. -/
theorem State.byteAt_writeBytes_inside (s : State) (a : Nat) (us : List Byte) (j : Nat) (h : j < us.length) :
    (s.writeBytes a us).byteAt (a + j) = us[j] := by
  induction us generalizing s a j with
  | nil => simp at h
  | cons u us ih =>
    cases j with
    | zero =>
      rw [State.writeBytes_cons, State.byteAt_writeBytes_outside _ _ _ _ (by omega), State.byteAt_writeMem]
      simp
    | succ j =>
      have := ih (s.writeMem a u) (a + 1) j (by simpa using h)
      simpa [Nat.add_assoc, Nat.add_comm 1 j] using this

/-- Writing bytes inside the address space keeps the canonical form. -/
theorem State.writeBytes_memWf (s : State) (a : Nat) (us : List Byte) (h : Memory.wf s.env.font s.mem = true)
    (ha : a + us.length ≤ 4096) :
    Memory.wf (s.writeBytes a us).env.font (s.writeBytes a us).mem = true := by
  induction us generalizing s a with
  | nil => exact h
  | cons u us ih =>
    simp only [List.length_cons] at ha
    exact ih (s.writeMem a u) (a + 1) (Memory.wf_write _ _ _ _ h (by omega)) (by omega)

/-! ### Checked reads (R51, R53, R141) -/

theorem State.readMem_ok (s : State) (a : Nat) (h : a < 4096) : s.readMem a = .ok (s.byteAt a) := by
  simp [State.readMem, Nat.not_le.2 h]

theorem State.readMem_error (s : State) (a : Nat) (h : 4096 ≤ a) :
    s.readMem a = .error (.memoryOutOfRange a) := by
  simp [State.readMem, h]

/-- All rows in range: the bytes in order. -/
theorem State.readBytes_ok (s : State) (a n : Nat) (h : n = 0 ∨ a + n ≤ 4096) :
    s.readBytes a n = .ok ((List.range' a n).map s.byteAt) := by
  induction n generalizing a with
  | zero => rfl
  | succ n ih =>
    rw [State.readBytes, State.readMem_ok _ _ (by omega), ih (a + 1) (by omega)]
    rfl

/-- A row out of range: the first such address is reported. -/
theorem State.readBytes_error (s : State) (a n r : Nat) (hr : r < n) (ho : 4096 ≤ a + r)
    (hf : ∀ q, q < r → a + q < 4096) : s.readBytes a n = .error (.memoryOutOfRange (a + r)) := by
  induction n generalizing a r with
  | zero => omega
  | succ n ih =>
    cases r with
    | zero =>
      rw [Nat.add_zero] at ho
      show s.readBytes a (n + 1) = .error (.memoryOutOfRange a)
      simp only [State.readBytes, State.readMem_error _ _ ho]
    | succ r =>
      have h0 : a < 4096 := hf 0 (by omega)
      rw [State.readBytes, State.readMem_ok _ _ h0,
        ih (a + 1) r (by omega) (by omega) fun q hq => by have := hf (q + 1) (by omega); omega]
      simp [Nat.add_assoc, Nat.add_comm 1 r]

/-- Everything a fetch can do (R53): a fault naming the first offending address, or the big-endian word. -/
theorem State.fetch_cases (s : State) :
    (4096 ≤ s.pc.toNat ∧ s.fetch = .error (.memoryOutOfRange s.pc.toNat)) ∨
      (s.pc.toNat = 4095 ∧ s.fetch = .error (.memoryOutOfRange 4096)) ∨
      (s.pc.toNat ≤ 4094 ∧
        s.fetch = .ok (assemble (s.byteAt s.pc.toNat) (s.byteAt (s.pc.toNat + 1)))) := by
  unfold State.fetch
  rcases Nat.lt_or_ge s.pc.toNat 4096 with h | h
  · rcases Nat.lt_or_ge s.pc.toNat 4095 with h' | h'
    · right; right
      exact ⟨by omega, by rw [State.readMem_ok _ _ h, State.readMem_ok _ _ (by omega)]⟩
    · right; left
      refine ⟨by omega, ?_⟩
      rw [State.readMem_ok _ _ h, State.readMem_error _ _ (by omega)]
      have : s.pc.toNat + 1 = 4096 := by omega
      simp [this]
  · left
    exact ⟨h, by rw [State.readMem_error _ _ h]⟩

end Sys2Proof.Machine
end

