-- ==== Sys2Proof/Laws/Ops.lean ====
section
/-! SUPPORT. One lemma for each shared operation that says what it does: the call stack, the keypad operands,
the end of a command, the skip, and the drawing of a sprite. -/

namespace Sys2Proof.Machine

/-! ### The end of a command (R176) -/

@[simp] theorem State.commit_ok (s t : State) : s.commit (.ok t) = .next t := rfl

@[simp] theorem State.commit_error (s : State) (f : Fault) : s.commit (.error f) = .next (s.raise f) := rfl

/-- A command always ends in a next state. -/
theorem State.commit_next (s : State) (r : Except Fault State) : ∃ t, s.commit r = .next t := by
  cases r <;> exact ⟨_, rfl⟩

/-! ### The call stack (R28, R29) -/

theorem State.push_ok (s : State) (w : Word) (h : s.sp.val < 16) :
    s.push w = .ok { s with stack := s.stack.set s.sp.val w, sp := ⟨s.sp.val + 1, by omega⟩ } :=
  dif_pos h

theorem State.push_full (s : State) (w : Word) (h : s.sp.val = 16) : s.push w = .error (.stackOverflow w) :=
  dif_neg (by omega)

theorem State.pop_ok (s : State) (h : 0 < s.sp.val) :
    s.pop = .ok (s.stack[s.sp.val - 1], { s with sp := ⟨s.sp.val - 1, by omega⟩ }) :=
  dif_pos h

theorem State.pop_empty (s : State) (h : s.sp.val = 0) : s.pop = .error .stackUnderflow :=
  dif_neg (by omega)

/-! ### The keypad operands (R150, R153) -/

theorem State.keyOf_ok (s : State) (x : Reg) (h : (s.reg x).toNat < 16) :
    s.keyOf x = .ok ⟨(s.reg x).toNat, h⟩ :=
  dif_pos h

theorem State.keyOf_error (s : State) (x : Reg) (h : 15 < (s.reg x).toNat) :
    s.keyOf x = .error (.keyIndexOutOfRange (s.reg x)) :=
  dif_neg (by omega)

/-- No key is read exactly when none is pressed. -/
theorem State.lowestKey_none (s : State) : s.lowestKey = none ↔ ∀ k : Key, s.pressed k = false := by
  simp [State.lowestKey]

/-- The key read is pressed, and no lower one is. -/
theorem State.lowestKey_some (s : State) (k : Key) :
    s.lowestKey = some k ↔ s.pressed k = true ∧ ∀ j : Key, j < k → s.pressed j = false := by
  simp only [State.lowestKey, List.find?_eq_some_iff_getElem, List.getElem_finRange, List.length_finRange,
    Bool.not_eq_true', Fin.ext_iff, Fin.val_cast]
  constructor
  · rintro ⟨hk, i, hi, e, hl⟩
    refine ⟨hk, fun j hj => ?_⟩
    have := hl j.val (by have : j.val < k.val := hj; omega)
    simpa using this
  · rintro ⟨hk, hl⟩
    exact ⟨hk, k.val, k.isLt, rfl, fun j hj => hl _ hj⟩

/-! ### Skips (R104) -/

/-- The fetch's advance and a taken skip together: `p + 4`. -/
theorem pc_advance_skip (p : Word) : p + 2 + 2 = p + 4 := by rw [BitVec.add_assoc]; rfl

/-! ### Sprites (R141) -/

/-- The cells of a row: those its 1 bits land on. -/
theorem mem_rowCells (vx vy r : Nat) (b : Byte) (c : Cell) :
    c ∈ rowCells vx vy r b ↔ ∃ k, k < 8 ∧ b.getLsbD (7 - k) = true ∧ c = cellAt (vx + k) (vy + r) := by
  simp only [rowCells, List.mem_map, List.mem_filter, List.mem_range, and_assoc, eq_comm]

/-- The cells of a sprite: those of its rows. -/
theorem mem_spriteCells (vx vy r : Nat) (rows : List Byte) (c : Cell) :
    c ∈ spriteCells vx vy r rows ↔
      ∃ q, ∃ h : q < rows.length, c ∈ rowCells vx vy (r + q) rows[q] := by
  induction rows generalizing r with
  | nil => simp [spriteCells]
  | cons b bs ih =>
    simp only [spriteCells, List.mem_append, ih, List.length_cons]
    constructor
    · rintro (h | ⟨q, hq, h⟩)
      · exact ⟨0, by omega, h⟩
      · exact ⟨q + 1, by omega, by simpa [Nat.add_assoc, Nat.add_comm 1 q] using h⟩
    · rintro ⟨q, hq, h⟩
      cases q with
      | zero => exact .inl h
      | succ q => exact .inr ⟨q, by omega, by simpa [Nat.add_assoc, Nat.add_comm 1 q] using h⟩

/-- Plotting cells sets exactly those, and clears none. -/
theorem plotCells_fb (cells : List Cell) (acc : Framebuffer × Bool) (c : Cell) :
    (cells.foldl plotCell acc).1[c.val] = true ↔ acc.1[c.val] = true ∨ c ∈ cells := by
  induction cells generalizing acc with
  | nil => simp
  | cons d ds ih =>
    rw [List.foldl_cons, ih, List.mem_cons]
    simp only [plotCell, Vector.getElem_set]
    by_cases h : d.val = c.val
    · simp [Fin.ext h]
    · have : c ≠ d := fun e => h (by rw [e])
      simp [h, this]

/-- Plotting pairwise distinct cells collides exactly when one of them was set on entry (R142 (c)). -/
theorem plotCells_collision (cells : List Cell) (acc : Framebuffer × Bool) (h : cells.Nodup) :
    (cells.foldl plotCell acc).2 = true ↔ acc.2 = true ∨ ∃ c ∈ cells, acc.1[c.val] = true := by
  induction cells generalizing acc with
  | nil => simp
  | cons d ds ih =>
    obtain ⟨hd, hds⟩ := List.nodup_cons.1 h
    rw [List.foldl_cons, ih _ hds]
    simp only [plotCell, Bool.or_eq_true, List.mem_cons, exists_eq_or_imp, Vector.getElem_set, or_assoc]
    have : (∃ c ∈ ds, (if d.val = c.val then true else acc.1[c.val]) = true) ↔ ∃ c ∈ ds, acc.1[c.val] = true := by
      refine exists_congr fun c => and_congr_right fun hc => ?_
      rw [if_neg fun e => hd ((Fin.ext e : d = c) ▸ hc)]
    rw [this]

end Sys2Proof.Machine
end

