-- ==== Sys2Proof/Laws/PerInstr.lean ====
section
/-! SUPPORT. A law about every instruction as syntax: its word selects the row of the opcode table that
30_encoding.md R76 gives it, whatever its operands. -/

namespace Sys2Proof.Laws.RowForm

/-- The row of R76 an instruction stands in, counted from 0. -/
def rowNumber : Instr → Nat
  | .nop => 0
  | .cls => 1
  | .ret => 2
  | .jp _ => 3
  | .call _ => 4
  | .seImm _ _ => 5
  | .sneImm _ _ => 6
  | .seReg _ _ => 7
  | .ldImm _ _ => 8
  | .addImm _ _ => 9
  | .ldReg _ _ => 10
  | .orReg _ _ => 11
  | .andReg _ _ => 12
  | .xorReg _ _ => 13
  | .addReg _ _ => 14
  | .sub _ _ => 15
  | .shr _ _ => 16
  | .subn _ _ => 17
  | .shl _ _ => 18
  | .sneReg _ _ => 19
  | .ldI _ => 20
  | .jpV0 _ => 21
  | .rnd _ _ => 22
  | .drw _ _ _ => 23
  | .skp _ => 24
  | .sknp _ => 25
  | .ldVxDT _ => 26
  | .ldVxK _ => 27
  | .ldDT _ => 28
  | .ldST _ => 29
  | .addI _ => 30
  | .ldF _ => 31

/-- The word of a well-formed instruction selects the row the instruction stands in (R83: "the row's `match` with
each field placed by rule R71"). -/
def Statement (i : Instr) : Prop :=
  i.wellFormed = true → ∃ r, opcodeTable[rowNumber i]? = some r ∧ Row.selects (encode i) r = true

/-! ### The operand fields under the masks of R76 -/

theorem or_and_mask (a b m : Word) : (a ||| b) &&& m = a &&& m ||| b &&& m := by
  ext i hi; simp [Bool.and_or_distrib_right]

theorem or_nothing (a : Word) : a ||| 0 = a := BitVec.or_zero

theorem target_clear (nnn : Target) : nnn.setWidth 16 &&& (0xF000 : Word) = 0 := by
  ext i hi
  interval_cases i <;> simp

theorem target_mask (m p : Word) (hm : ∀ nnn : Target, nnn.setWidth 16 &&& m = 0) (hp : p &&& m = p)
    (nnn : Target) : (p ||| nnn.setWidth 16) &&& m = p := by
  rw [or_and_mask, hm, hp, or_nothing]

theorem immediate_mask (m p : Word) (hm : ∀ nn : Byte, nn.setWidth 16 &&& m = 0) (hx : ∀ x, placeX x &&& m = 0)
    (hp : p &&& m = p) (x : Reg) (nn : Byte) : (p ||| placeX x ||| nn.setWidth 16) &&& m = p := by
  rw [or_and_mask, or_and_mask, hm, hx, hp, or_nothing, or_nothing]

theorem two_mask (m p : Word) (hx : ∀ x, placeX x &&& m = 0) (hy : ∀ y, placeY y &&& m = 0)
    (hp : p &&& m = p) (x y : Reg) : (p ||| placeX x ||| placeY y) &&& m = p := by
  rw [or_and_mask, or_and_mask, hx, hy, hp, or_nothing, or_nothing]

theorem one_mask (m p : Word) (hx : ∀ x, placeX x &&& m = 0) (hp : p &&& m = p) (x : Reg) :
    (p ||| placeX x) &&& m = p := by
  rw [or_and_mask, hx, hp, or_nothing]

theorem count_mask (x y : Reg) (n : Nat) (h : n < 16) :
    (0xD000 ||| placeX x ||| placeY y ||| BitVec.ofNat 16 n) &&& 0xF000 = 0xD000 := by
  have hn : BitVec.ofNat 16 n &&& 0xF000 = 0 := by revert n; decide +kernel
  rw [or_and_mask, two_mask 0xF000 0xD000 (by decide) (by decide) (by decide) x y, hn, or_nothing]

theorem immediate_clear (nn : Byte) : nn.setWidth 16 &&& (0xF000 : Word) = 0 := by
  ext i hi
  interval_cases i <;> simp

/-- A row that selects the word gives the Statement. -/
theorem of_row {i : Instr} (r : Row) (hr : opcodeTable[rowNumber i]? = some r)
    (h : i.wellFormed = true → encode i &&& r.mask = r.pattern) : Statement i :=
  fun hi => ⟨r, hr, beq_iff_eq.2 (h hi)⟩

/-! ### One lemma per instruction -/

theorem nop : Statement .nop :=
  of_row _ rfl fun _ => rfl

theorem cls : Statement .cls :=
  of_row _ rfl fun _ => rfl

theorem ret : Statement .ret :=
  of_row _ rfl fun _ => rfl

theorem jp (nnn : Target) : Statement (.jp nnn) :=
  of_row _ rfl fun _ => target_mask _ 0x1000 target_clear (by decide) nnn

theorem call (nnn : Target) : Statement (.call nnn) :=
  of_row _ rfl fun _ => target_mask _ 0x2000 target_clear (by decide) nnn

theorem seImm (x : Reg) (nn : Byte) : Statement (.seImm x nn) :=
  of_row _ rfl fun _ => immediate_mask _ 0x3000 immediate_clear (by decide) (by decide) x nn

theorem sneImm (x : Reg) (nn : Byte) : Statement (.sneImm x nn) :=
  of_row _ rfl fun _ => immediate_mask _ 0x4000 immediate_clear (by decide) (by decide) x nn

theorem seReg (x y : Reg) : Statement (.seReg x y) :=
  of_row _ rfl fun _ => two_mask _ 0x5000 (by decide) (by decide) (by decide) x y

theorem ldImm (x : Reg) (nn : Byte) : Statement (.ldImm x nn) :=
  of_row _ rfl fun _ => immediate_mask _ 0x6000 immediate_clear (by decide) (by decide) x nn

theorem addImm (x : Reg) (nn : Byte) : Statement (.addImm x nn) :=
  of_row _ rfl fun _ => immediate_mask _ 0x7000 immediate_clear (by decide) (by decide) x nn

theorem ldReg (x y : Reg) : Statement (.ldReg x y) :=
  of_row _ rfl fun _ => two_mask _ 0x8000 (by decide) (by decide) (by decide) x y

theorem orReg (x y : Reg) : Statement (.orReg x y) :=
  of_row _ rfl fun _ => two_mask _ 0x8001 (by decide) (by decide) (by decide) x y

theorem andReg (x y : Reg) : Statement (.andReg x y) :=
  of_row _ rfl fun _ => two_mask _ 0x8002 (by decide) (by decide) (by decide) x y

theorem xorReg (x y : Reg) : Statement (.xorReg x y) :=
  of_row _ rfl fun _ => two_mask _ 0x8003 (by decide) (by decide) (by decide) x y

theorem addReg (x y : Reg) : Statement (.addReg x y) :=
  of_row _ rfl fun _ => two_mask _ 0x8004 (by decide) (by decide) (by decide) x y

theorem sub (x y : Reg) : Statement (.sub x y) :=
  of_row _ rfl fun _ => two_mask _ 0x8005 (by decide) (by decide) (by decide) x y

theorem shr (x y : Reg) : Statement (.shr x y) :=
  of_row _ rfl fun _ => two_mask _ 0x8006 (by decide) (by decide) (by decide) x y

theorem subn (x y : Reg) : Statement (.subn x y) :=
  of_row _ rfl fun _ => two_mask _ 0x8007 (by decide) (by decide) (by decide) x y

theorem shl (x y : Reg) : Statement (.shl x y) :=
  of_row _ rfl fun _ => two_mask _ 0x800E (by decide) (by decide) (by decide) x y

theorem sneReg (x y : Reg) : Statement (.sneReg x y) :=
  of_row _ rfl fun _ => two_mask _ 0x9000 (by decide) (by decide) (by decide) x y

theorem ldI (nnn : Target) : Statement (.ldI nnn) :=
  of_row _ rfl fun _ => target_mask _ 0xA000 target_clear (by decide) nnn

theorem jpV0 (nnn : Target) : Statement (.jpV0 nnn) :=
  of_row _ rfl fun _ => target_mask _ 0xB000 target_clear (by decide) nnn

theorem rnd (x : Reg) (nn : Byte) : Statement (.rnd x nn) :=
  of_row _ rfl fun _ => immediate_mask _ 0xC000 immediate_clear (by decide) (by decide) x nn

theorem drw (x y : Reg) (n : Nat) : Statement (.drw x y n) :=
  of_row _ rfl fun h => count_mask x y n (of_decide_eq_true h)

theorem skp (x : Reg) : Statement (.skp x) :=
  of_row _ rfl fun _ => one_mask _ 0xE09E (by decide) (by decide) x

theorem sknp (x : Reg) : Statement (.sknp x) :=
  of_row _ rfl fun _ => one_mask _ 0xE0A1 (by decide) (by decide) x

theorem ldVxDT (x : Reg) : Statement (.ldVxDT x) :=
  of_row _ rfl fun _ => one_mask _ 0xF007 (by decide) (by decide) x

theorem ldVxK (x : Reg) : Statement (.ldVxK x) :=
  of_row _ rfl fun _ => one_mask _ 0xF00A (by decide) (by decide) x

theorem ldDT (x : Reg) : Statement (.ldDT x) :=
  of_row _ rfl fun _ => one_mask _ 0xF015 (by decide) (by decide) x

theorem ldST (x : Reg) : Statement (.ldST x) :=
  of_row _ rfl fun _ => one_mask _ 0xF018 (by decide) (by decide) x

theorem addI (x : Reg) : Statement (.addI x) :=
  of_row _ rfl fun _ => one_mask _ 0xF01E (by decide) (by decide) x

theorem ldF (x : Reg) : Statement (.ldF x) :=
  of_row _ rfl fun _ => one_mask _ 0xF029 (by decide) (by decide) x

end Sys2Proof.Laws.RowForm
end

