-- ==== Sys2Proof/Tests/Slice0.lean ====
section
/-! SUPPORT. Small tests of the model: well-formedness, decoding of words written out from 30_encoding.md R76, one
or two single steps per instruction with the expected values of 95_test_vectors.md (named in each comment), and
for every obligation with hypotheses a concrete state and operands that meet them. -/

namespace Sys2Proof.Tests

open Sys2Proof.Machine

-- One test after the other: as many evaluations at once as there are tests would take a thread each.
set_option Elab.async false

/-! ### Helpers -/

/-- The reset state with a word placed at 0x200. -/
def sample (w : Word) : State := State.reset.place w

/-- Registers set one after the other. -/
def regs (s : State) : List (Reg × Byte) → State
  | [] => s
  | (x, b) :: l => regs (s.setReg x b) l

/-- The state with some cells of the framebuffer true. -/
def lit (s : State) (l : List Cell) : State := s.setFb (l.foldl (fun fb c => fb.set c.val true) s.fb)

/-- The answer is a next state with a property. -/
def answers (r : Result) (p : State → Bool) : Bool :=
  match r with
  | .next t => p t
  | .fault _ => false
  | .refused _ => false

/-- One step leads to a state with a property. -/
def after (s : State) (p : State → Bool) : Bool := answers (step s) p

/-! ### Well-formedness: the one check refuses a term that breaks it (R73) -/

theorem test_wf_sprite_height_refused : (Instr.drw 0 0 16).wellFormed = false := by decide
theorem test_wf_sprite_height_accepted : (Instr.drw 0 0 15).wellFormed = true := by decide

/-! ### Decoding, each word written bit by bit as `d1 x y n` from R76 -/

theorem test_decode_control :
    decodeWord 0b0000_0000_0000_0000 = .instr .nop ∧
    decodeWord 0b0000_0000_1110_0000 = .instr .cls ∧
    decodeWord 0b0000_0000_1110_1110 = .instr .ret ∧
    decodeWord 0b0001_1010_1011_1100 = .instr (.jp 0xABC) ∧
    decodeWord 0b0010_0011_0000_0001 = .instr (.call 0x301) ∧
    decodeWord 0b1011_1111_1111_1110 = .instr (.jpV0 0xFFE) := by decide +kernel

theorem test_decode_skips :
    decodeWord 0b0011_1010_0100_0010 = .instr (.seImm 10 0x42) ∧
    decodeWord 0b0100_1011_0100_0011 = .instr (.sneImm 11 0x43) ∧
    decodeWord 0b0101_1010_1011_0000 = .instr (.seReg 10 11) ∧
    decodeWord 0b1001_1010_1011_0000 = .instr (.sneReg 10 11) ∧
    decodeWord 0b1110_0001_1001_1110 = .instr (.skp 1) ∧
    decodeWord 0b1110_1111_1010_0001 = .instr (.sknp 15) := by decide +kernel

theorem test_decode_alu :
    decodeWord 0b0110_1111_0111_1011 = .instr (.ldImm 15 0x7B) ∧
    decodeWord 0b0111_0010_0000_0101 = .instr (.addImm 2 0x05) ∧
    decodeWord 0b1000_1010_1011_0000 = .instr (.ldReg 10 11) ∧
    decodeWord 0b1000_1010_1011_0001 = .instr (.orReg 10 11) ∧
    decodeWord 0b1000_1010_1011_0010 = .instr (.andReg 10 11) ∧
    decodeWord 0b1000_1010_1011_0011 = .instr (.xorReg 10 11) ∧
    decodeWord 0b1000_0000_0001_0100 = .instr (.addReg 0 1) := by decide +kernel

theorem test_decode_subtract_shift_random :
    decodeWord 0b1000_0000_0001_0101 = .instr (.sub 0 1) ∧
    decodeWord 0b1000_0100_0101_0110 = .instr (.shr 4 5) ∧
    decodeWord 0b1000_1010_1011_0111 = .instr (.subn 10 11) ∧
    decodeWord 0b1000_1010_1011_1110 = .instr (.shl 10 11) ∧
    decodeWord 0b1100_0011_0000_1111 = .instr (.rnd 3 0x0F) := by decide +kernel

theorem test_decode_index_display :
    decodeWord 0b1010_0010_0000_1010 = .instr (.ldI 0x20A) ∧
    decodeWord 0b1111_0010_0001_1110 = .instr (.addI 2) ∧
    decodeWord 0b1111_1010_0010_1001 = .instr (.ldF 10) ∧
    decodeWord 0b1101_0001_0010_0101 = .instr (.drw 1 2 5) ∧
    decodeWord 0b1101_0000_0000_0000 = .instr (.drw 0 0 0) := by decide +kernel

theorem test_decode_keypad_timers :
    decodeWord 0b1111_0101_0000_1010 = .instr (.ldVxK 5) ∧
    decodeWord 0b1111_0011_0000_0111 = .instr (.ldVxDT 3) ∧
    decodeWord 0b1111_0000_0001_0101 = .instr (.ldDT 0) ∧
    decodeWord 0b1111_0010_0001_1000 = .instr (.ldST 2) := by decide +kernel

/-- Vectors A4, A6, A7, A9, A11, A13: a word of each illegal set, next to a legal neighbour where there is one. -/
theorem test_decode_illegal :
    [0x0001, 0x00E1, 0x0FFF, 0x5AB1, 0x8AB8, 0x8018, 0x801F, 0x9AB1, 0xE000, 0xE09F, 0xE0A0, 0xF000, 0xF033, 0xF055,
      0xF065, 0xF075, 0xF085, 0xFFFF].all (fun w : Word => decodeWord w == .unimplemented) = true := by
  decide +kernel

/-- Two bytes in memory order, high byte first (R54), and the bytes after them kept. -/
theorem test_decode_bytes :
    decodeBytes [0xA2, 0x0A, 0x60] = .instr (.ldI 0x20A) [0x60] ∧ decodeBytes [0xF0, 0x33] = .unimplemented 0xF033 ∧
      decodeBytes [0x12] = .truncated ∧ decodeTableWord 16 0xD125 = some (.drw 1 2 5) := by decide +kernel

theorem test_encode :
    encode (.drw 1 2 5) = 0xD125 ∧ encode (.call 0x20E) = 0x220E ∧ encode (.subn 10 11) = 0x8AB7 ∧
      encode (.seImm 10 0x42) = 0x3A42 ∧ encodeBytes (.ldI 0x20A) = [0xA2, 0x0A] := by decide +kernel

/-! ### Control transfer (group B) -/

/-- B1 -/
theorem test_nop : after (sample 0x0000) (fun t => t.pc == 0x202 && t.fault == none) = true := by decide +kernel

/-- B2 -/
theorem test_ret :
    answers (exec .ret { State.reset with pc := 0x400, sp := 2, stack := (State.reset.stack.set 0 0x206).set 1 0x30A })
      (fun t => t.pc == 0x30A && t.sp == 1 && t.stack[1] == 0x30A) = true := by decide +kernel

/-- B3 -/
theorem test_ret_empty :
    after (sample 0x00EE) (fun t => t.pc == 0x200 && t.fault == some .stackUnderflow) = true := by decide +kernel

/-- B4 -/
theorem test_jp : after (sample 0x1ABC) (fun t => t.pc == 0xABC) = true := by decide +kernel

/-- B5 -/
theorem test_jp_self : after (sample 0x1200) (fun t => t.pc == 0x200 && t.fault == none) = true := by decide +kernel

/-- B7 -/
theorem test_call :
    after { sample 0x2ABC with sp := 15 }
      (fun t => t.pc == 0xABC && t.sp == 16 && t.stack[15] == 0x202 && t.stack[14] == 0) = true := by decide +kernel

/-- B8 -/
theorem test_call_full :
    after { sample 0x2ABC with sp := 16 }
      (fun t => t.pc == 0x200 && t.sp == 16 && t.fault == some (.stackOverflow 0x202)) = true := by decide +kernel

/-- B11 -/
theorem test_jpV0 : after (regs (sample 0xBFFF) [(0, 0xFF)]) (fun t => t.pc == 0x10FE) = true := by decide +kernel

/-- B12: `V0` is used, not `V1`. -/
theorem test_jpV0_register :
    after (regs (sample 0xB1FF) [(0, 1), (1, 0x77)]) (fun t => t.pc == 0x200) = true := by decide +kernel

/-! ### Skips (groups C and H) -/

/-- C1 -/
theorem test_seImm : after (regs (sample 0x3A42) [(10, 0x42)]) (fun t => t.pc == 0x204) = true := by decide +kernel
/-- C2 -/
theorem test_seImm_not : after (regs (sample 0x3A42) [(10, 0x43)]) (fun t => t.pc == 0x202) = true := by decide +kernel
/-- C4 -/
theorem test_sneImm_not : after (regs (sample 0x4A42) [(10, 0x42)]) (fun t => t.pc == 0x202) = true := by decide +kernel
/-- C5 -/
theorem test_sneImm : after (regs (sample 0x4A42) [(10, 0x43)]) (fun t => t.pc == 0x204) = true := by decide +kernel
/-- C6 -/
theorem test_seReg : after (regs (sample 0x5AB0) [(10, 9), (11, 9)]) (fun t => t.pc == 0x204) = true := by
  decide +kernel
/-- C7 -/
theorem test_seReg_not : after (regs (sample 0x5AB0) [(10, 9), (11, 8)]) (fun t => t.pc == 0x202) = true := by
  decide +kernel
/-- C10 -/
theorem test_sneReg : after (regs (sample 0x9AB0) [(10, 9), (11, 8)]) (fun t => t.pc == 0x204) = true := by
  decide +kernel
/-- C11 -/
theorem test_sneReg_same : after (regs (sample 0x9330) [(3, 0x99)]) (fun t => t.pc == 0x202) = true := by decide +kernel

/-- H3 and H4 -/
theorem test_skp :
    after (regs ((sample 0xE19E).setKey 10 true) [(1, 10)]) (fun t => t.pc == 0x204) = true ∧
      after (regs (sample 0xE19E) [(1, 10)]) (fun t => t.pc == 0x202) = true := by decide +kernel

/-- H8 -/
theorem test_skp_no_such_key :
    after (regs (sample 0xE09E) [(0, 0x10)]) (fun t => t.pc == 0x200 && t.fault == some (.keyIndexOutOfRange 0x10)) =
      true := by decide +kernel

/-- H5 and H6 -/
theorem test_sknp :
    after (regs ((sample 0xE1A1).setKey 10 true) [(1, 10)]) (fun t => t.pc == 0x202) = true ∧
      after (regs (sample 0xE1A1) [(1, 10)]) (fun t => t.pc == 0x204) = true := by decide +kernel

/-- H9 -/
theorem test_sknp_no_such_key :
    after (regs (sample 0xE0A1) [(0, 0xFF)]) (fun t => t.fault == some (.keyIndexOutOfRange 0xFF)) = true := by
  decide +kernel

/-- H10 -/
theorem test_ldVxK :
    after (((sample 0xF50A).setKey 7 true).setKey 3 true) (fun t => t.reg 5 == 3 && t.pc == 0x202) = true := by
  decide +kernel

/-- H11 -/
theorem test_ldVxK_none :
    after (regs (sample 0xF50A) [(5, 9)]) (fun t => t.reg 5 == 9 && t.pc == 0x204) = true := by decide +kernel

/-! ### Register, arithmetic, logic, shift, random (group D) -/

/-- D1 -/
theorem test_ldImm : after (sample 0x6F7B) (fun t => t.reg 15 == 0x7B && t.pc == 0x202) = true := by decide +kernel
/-- D2 -/
theorem test_addImm : after (regs (sample 0x7205) [(2, 0xFE)]) (fun t => t.reg 2 == 0x03 && t.reg 15 == 0) = true := by
  decide +kernel
/-- D4 -/
theorem test_addImm_vf : after (regs (sample 0x7FFF) [(15, 1)]) (fun t => t.reg 15 == 0) = true := by decide +kernel
/-- D6 -/
theorem test_ldReg : after (regs (sample 0x8AB0) [(11, 0x5A)]) (fun t => t.reg 10 == 0x5A && t.reg 11 == 0x5A) = true := by
  decide +kernel
/-- D9 -/
theorem test_orReg : after (regs (sample 0x8AB1) [(10, 0xF0), (11, 0x3C)]) (fun t => t.reg 10 == 0xFC) = true := by
  decide +kernel
/-- D10 -/
theorem test_andReg : after (regs (sample 0x8AB2) [(10, 0xF0), (11, 0x3C)]) (fun t => t.reg 10 == 0x30) = true := by
  decide +kernel
/-- D10 with `BITOPS_ALL_OR` -/
theorem test_andReg_allOr :
    after { regs (sample 0x8AB2) [(10, 0xF0), (11, 0x3C)] with env := { Env.initial with bitopsAllOr := true } }
      (fun t => t.reg 10 == 0xFC && t.reg 15 == 0) = true := by decide +kernel
/-- D11 -/
theorem test_xorReg : after (regs (sample 0x8AB3) [(10, 0xF0), (11, 0x3C)]) (fun t => t.reg 10 == 0xCC) = true := by
  decide +kernel
/-- D12 with `BITOPS_ALL_OR` -/
theorem test_xorReg_allOr :
    after { regs (sample 0x8AA3) [(10, 0xF0)] with env := { Env.initial with bitopsAllOr := true } }
      (fun t => t.reg 10 == 0xF0) = true := by decide +kernel
/-- D14 -/
theorem test_addReg :
    after (regs (sample 0x8014) [(0, 0xFF), (1, 1)]) (fun t => t.reg 0 == 0 && t.reg 15 == 1) = true := by decide +kernel
/-- D19: the flag is written last. -/
theorem test_addReg_vf : after (regs (sample 0x8F14) [(15, 1), (1, 1)]) (fun t => t.reg 15 == 0) = true := by
  decide +kernel
/-- D23 -/
theorem test_sub_borrow :
    after (regs (sample 0x8015) [(0, 1), (1, 5)]) (fun t => t.reg 0 == 0xFC && t.reg 15 == 0) = true := by decide +kernel
/-- D24 -/
theorem test_sub_equal :
    after (regs (sample 0x8015) [(0, 7), (1, 7)]) (fun t => t.reg 0 == 0 && t.reg 15 == 1) = true := by decide +kernel
/-- D36: `y` is ignored. -/
theorem test_shr :
    after (regs (sample 0x8456) [(4, 4), (5, 0xFF)]) (fun t => t.reg 4 == 2 && t.reg 15 == 0 && t.reg 5 == 0xFF) =
      true := by decide +kernel
/-- D39 -/
theorem test_shr_bit : after (regs (sample 0x8406) [(4, 0xFF)]) (fun t => t.reg 4 == 0x7F && t.reg 15 == 1) = true := by
  decide +kernel
/-- D30 -/
theorem test_subn :
    after (regs (sample 0x8017) [(0, 1), (1, 5)]) (fun t => t.reg 0 == 4 && t.reg 15 == 1) = true := by decide +kernel
/-- D33 -/
theorem test_subn_vf : after (regs (sample 0x8F17) [(15, 5), (1, 1)]) (fun t => t.reg 15 == 0) = true := by
  decide +kernel
/-- D42 -/
theorem test_shl : after (regs (sample 0x840E) [(4, 0x81)]) (fun t => t.reg 4 == 2 && t.reg 15 == 1) = true := by
  decide +kernel
/-- D47 -/
theorem test_shl_vf : after (regs (sample 0x8F1E) [(15, 0x7F)]) (fun t => t.reg 15 == 0) = true := by decide +kernel
/-- D48 and D49, the random byte left free. -/
theorem test_rnd (s : State) (x : Reg) :
    exec (.rnd x 0x0F) s = .next (s.advance.drawn.setReg x (Config.rnd s.env.draws &&& 0x0F)) := rfl

/-! ### Index register (group F) -/

/-- F2 -/
theorem test_ldI : after (sample 0xAFFF) (fun t => t.i == 0x0FFF) = true := by decide +kernel
/-- F4 -/
theorem test_addI_wraps :
    after (regs { sample 0xF01E with i := 0xFFFF } [(0, 1)]) (fun t => t.i == 0 && t.reg 15 == 0) = true := by
  decide +kernel
/-- F5 -/
theorem test_addI : after (regs { sample 0xF01E with i := 0x0FFF } [(0, 1)]) (fun t => t.i == 0x1000) = true := by
  decide +kernel
/-- F10: an 8-bit product would have been 4. -/
theorem test_ldF : after (regs (sample 0xF029) [(0, 0x34)]) (fun t => t.i == 0x104) = true := by decide +kernel

/-! ### Display (group G) -/

/-- G1 -/
theorem test_cls :
    after (lit (sample 0x00E0) [0, 5, 2047]) (fun t => t.fb.toList == List.replicate 2048 false && t.reg 15 == 0) = true := by
  decide +kernel

/-- G8: a full sprite row in the lower right corner lands on row 31 only. -/
theorem test_drw_wraps :
    spriteCells 60 31 0 [0xFF] = [2044, 2045, 2046, 2047, 1984, 1985, 1986, 1987] ∧
      after (regs { (sample 0xD011).writeMem 0x300 0x81 with i := 0x300 } [(0, 60), (1, 31)])
        (fun t => t.fb[2044] && t.fb[1987] && !t.fb[1988] && t.reg 15 == 0) = true := by decide +kernel

/-- G7 -/
theorem test_drw_collides :
    after (lit { (sample 0xD011).writeMem 0x300 0xF0 with i := 0x300 } [3])
      (fun t => t.fb.toList == List.replicate 4 true ++ List.replicate 2044 false && t.reg 15 == 1) = true := by decide +kernel

/-! ### Timers and commands (groups I and J) -/

/-- I1 -/
theorem test_ldVxDT : after { sample 0xF307 with dt := 0x2C } (fun t => t.reg 3 == 0x2C) = true := by decide +kernel
/-- I3 -/
theorem test_ldDT : after (regs (sample 0xF015) [(0, 7)]) (fun t => t.dt == 7 && t.st == 0) = true := by decide +kernel
/-- I4 -/
theorem test_ldST : after (regs (sample 0xF218) [(2, 3)]) (fun t => t.st == 3 && t.dt == 0) = true := by decide +kernel
/-- I7 -/
theorem test_tickTimers :
    answers (perform .tickTimers { State.reset with dt := 5, st := 1 })
      (fun t => t.dt == 4 && t.st == 0 && t.env.replies == [.toneCue true]) = true := by decide +kernel
/-- H1 -/
theorem test_keypress :
    answers (perform (.keypress 10 true) State.reset) (fun t => t.key[10] && !t.key[9]) = true := by decide +kernel
/-- G13, on an empty screen -/
theorem test_display :
    answers (perform .display State.reset) (fun t =>
      match t.env.replies with
      | [.cells c] => c.toList == List.replicate 2048 false
      | _ => false) = true := by decide +kernel
/-- J2 -/
theorem test_load :
    answers (perform (.load [0x60, 0x05, 0x30]) State.reset)
      (fun t => t.byteAt 0x200 == 0x60 && t.byteAt 0x201 == 0x05 && t.byteAt 0x202 == 0x30 && t.byteAt 0x203 == 0) =
      true := by decide +kernel
/-- J4 -/
theorem test_load_too_large :
    answers (perform (.load (List.replicate 3585 0)) State.reset)
      (fun t => t.fault == some (.romTooLarge 3585) && t.mem == []) = true := by decide +kernel
/-- J7, J8: a stopped machine, and RESET. -/
theorem test_stopped :
    answers (perform .tick { State.reset with fault := some .stackUnderflow, pc := 0x400 })
        (fun t => t.pc == 0x400 && t.fault == some .stackUnderflow) = true ∧
      answers (perform .reset { State.reset with fault := some .stackUnderflow, pc := 0x400 })
        (fun t => t.pc == 0x200 && t.fault == none) = true := by decide +kernel
/-- E4: the low byte is out of range. -/
theorem test_fetch_edge :
    after { State.reset with pc := 4095 } (fun t => t.fault == some (.memoryOutOfRange 4096) && t.pc == 4095) = true := by
  decide +kernel
/-- E8, with the font of U1 -/
theorem test_fetch_font :
    after { State.reset with pc := 0 } (fun t => t.fault == some (.unimplementedOpcode 0xF090) && t.pc == 0) = true := by
  decide +kernel

/-! ### Witnesses: for each obligation with hypotheses, a state and operands that meet them all -/

theorem witness_DecodeFollowsTheOneSelectedRow :
    (∃ r ∈ opcodeTable, (0x8AB7 : Word) &&& r.mask = r.pattern) ∧
      (∀ r ∈ opcodeTable, (0xF033 : Word) &&& r.mask ≠ r.pattern) ∧
      (∃ r, opcodeTable[17]? = some r ∧ (0x8AB7 : Word) &&& r.mask = r.pattern) := by
  refine ⟨⟨⟨0xF00F, 0x8007, fun op => .subn (fieldX op) (fieldY op)⟩, ?_, by decide⟩, ?_, ⟨_, rfl, by decide⟩⟩
  · exact List.mem_of_getElem? (i := 17) rfl
  · intro r hr
    simp only [opcodeTable, opcodeRowsA, opcodeRowsB, opcodeRowsC, List.cons_append, List.nil_append, List.mem_cons,
      List.not_mem_nil, or_false] at hr
    rcases hr with h | h | h | h | h | h | h | h | h | h | h | h | h | h | h | h | h | h | h | h | h | h | h | h | h | h |
      h | h | h | h | h | h <;> subst h <;> decide

theorem witness_DecodeOfEncode : (Instr.drw 15 15 15).wellFormed = true ∧ Instr.nop.wellFormed = true := by decide

theorem witness_EncodeOfDecode : decodeWord 0xD000 = .instr (.drw 0 0 0) ∧ decodeWord 0xBFFF = .instr (.jpV0 0xFFF) := by
  decide +kernel

theorem witness_IllegalWordsAreTheSixSets :
    (sample 0xF033).Running ∧ (sample 0xF033).fetch = .ok 0xF033 ∧ decodeWord 0xF033 = .unimplemented :=
  ⟨rfl, rfl, by decide +kernel⟩

theorem witness_FetchIsBigEndianAndChecked :
    4096 ≤ ({ State.reset with pc := 4096 } : State).pc.toNat ∧
      ({ State.reset with pc := 4095 } : State).pc.toNat = 4095 ∧
      ({ State.reset with pc := 4094 } : State).pc.toNat ≤ 4094 := by decide

theorem witness_StepRunsTheDecodedInstruction :
    (sample 0x8014).Running ∧ (sample 0x8014).fetch = .ok 0x8014 ∧ decodeWord 0x8014 = .instr (.addReg 0 1) ∧
      (sample 0x8014).Idle ∧
      ({ sample 0x8014 with env := { Env.initial with pending := [.tick, .display] } } : State).env.pending =
        .tick :: [.display] ∧
      ({ sample 0x8014 with env := { Env.initial with pending := [.tick, .display] } } : State).fetch = .ok 0x8014 :=
  ⟨rfl, rfl, by decide +kernel, rfl, rfl, rfl⟩

theorem witness_TickFetchesDecodesExecutes :
    ({ State.reset with fault := some .stackUnderflow } : State).fault ≠ none ∧
      ({ State.reset with pc := 4095 } : State).Running ∧
      ({ State.reset with pc := 4095 } : State).fetch = .error (.memoryOutOfRange 4096) ∧
      (sample 0x5121).Running ∧ (sample 0x5121).fetch = .ok 0x5121 ∧ decodeWord 0x5121 = .unimplemented ∧
      (sample 0x5120).Running ∧ (sample 0x5120).fetch = .ok 0x5120 ∧ decodeWord 0x5120 = .instr (.seReg 1 2) :=
  ⟨by decide, rfl, rfl, rfl, rfl, by decide +kernel, rfl, rfl, by decide +kernel⟩

theorem witness_StepPerformsTheNextCommand :
    State.reset.Idle ∧
      ({ State.reset with env := { Env.initial with pending := [.display] } } : State).env.pending = .display :: [] :=
  ⟨rfl, rfl⟩

/-- A raise of TICK and one of LOAD (also for CommandsRaiseOnlyTheirConditions). -/
theorem witness_FatalConditionsArePrecise :
    (∃ t, (sample 0x00EE).Running ∧ perform .tick (sample 0x00EE) = .next t ∧ t.fault = some .stackUnderflow) ∧
      (∃ t, State.reset.Running ∧ perform (.load (List.replicate 3585 0)) State.reset = .next t ∧
        t.fault = some (.romTooLarge 3585)) := by
  refine ⟨⟨{ sample 0x00EE with fault := some .stackUnderflow }, rfl, rfl, rfl⟩,
    ⟨State.reset.raise (.romTooLarge 3585), rfl, ?_, rfl⟩⟩
  simp only [perform, performLoad, List.length_replicate]
  rfl

theorem witness_StoppedMachineStaysStopped :
    ({ State.reset with fault := some .stackUnderflow } : State).fault = some .stackUnderflow ∧
      Command.tick ≠ .reset := by decide

/-- One state for each of the four disjuncts. -/
theorem witness_InstructionsRaiseOnlyTheirCondition :
    (∃ t, exec (.call 0x200) { State.reset with sp := 16 } = .next t ∧ t.fault = some (.stackOverflow 0x202)) ∧
      (∃ t, exec .ret State.reset = .next t ∧ t.fault = some .stackUnderflow) ∧
      (∃ t, exec (.skp 0) (regs State.reset [(0, 0x10)]) = .next t ∧ t.fault = some (.keyIndexOutOfRange 0x10)) ∧
      (∃ t, exec (.drw 0 0 1) { State.reset with i := 4096 } = .next t ∧ t.fault = some (.memoryOutOfRange 4096)) :=
  ⟨⟨_, rfl, rfl⟩, ⟨_, rfl, rfl⟩, ⟨_, rfl, rfl⟩, ⟨_, rfl, rfl⟩⟩

/-- The boundary of R38: `PC = 4350`, 16 live entries of 4096, a byte loaded at 4095. -/
def boundary : State :=
  { State.reset with pc := 4350, sp := 16, stack := Vector.replicate 16 4096, mem := [(4095, 1)] }

theorem witness_StepKeepsInvariants : boundary.Inv ∧ ∃ t, step boundary = .next t := by
  refine ⟨⟨by decide +kernel, by decide +kernel, by decide +kernel, by decide +kernel, by decide, ?_⟩, ⟨_, rfl⟩⟩
  intro f h; cases h

/-- For the statements over every instruction that answers a next state, the machine still running. -/
theorem witness_exec_answers :
    (sample 0x8014).Running ∧ ∃ t, exec (.addReg 0 1) (sample 0x8014) = .next t ∧ t.Running :=
  ⟨rfl, ⟨_, rfl, rfl⟩⟩

/-- For OnlyTheNamedInstructionsWriteEachPart: NOP meets every premise, for every register. -/
theorem witness_OnlyTheNamedInstructionsWriteEachPart :
    writesFb .nop = false ∧ usesStack .nop = false ∧ writesI .nop = false ∧ writesDt .nop = false ∧
      writesSt .nop = false ∧ readsRandom .nop = false ∧
      (∀ r : Reg, ordinaryDestination .nop ≠ some r ∧ resultDestination .nop ≠ some r) ∧
      writesFlag .nop = false := by decide

/-- For PcAfterEachInstruction: an instruction that branches on what the state holds. -/
theorem witness_PcAfterEachInstruction :
    ∃ t, (regs (State.reset.setKey 15 true) [(0, 15)]).Running ∧
      exec (.skp 0) (regs (State.reset.setKey 15 true) [(0, 15)]) = .next t ∧ t.Running :=
  ⟨_, rfl, rfl, rfl⟩

theorem witness_VfIsWrittenAsFlagOrDestinationOnly :
    writesFlag (.drw 0 0 1) = true ∧ writesFlag (.ldImm 14 0) = false ∧ ordinaryDestination (.ldImm 14 0) ≠ some 15 := by
  decide

/-- For RandomByteReachesOnlyRnd and SoundTimerIsReadByNoInstruction. -/
theorem witness_noninterference :
    (readsRandom (.ldST 0) = false ∧ ∃ t, exec (.ldST 0) State.reset = .next t) ∧
      (writesSt (.rnd 0 0) = false ∧ ∃ t, exec (.rnd 0 0) State.reset = .next t) :=
  ⟨⟨rfl, _, rfl⟩, ⟨rfl, _, rfl⟩⟩

theorem witness_RetPopsTheNewestEntry :
    ({ State.reset with sp := 16 } : State).sp.val = 15 + 1 ∧ ({ State.reset with sp := 1 } : State).sp.val = 0 + 1 ∧
      State.reset.sp.val = 0 := by decide

theorem witness_CallPushesTheReturnAddress :
    ({ State.reset with sp := 15 } : State).sp.val < 16 ∧ ({ State.reset with sp := 16 } : State).sp.val = 16 := by decide

/-- RET right after the CALL: `t'` is the state the CALL left. -/
theorem witness_RetAfterCallReturnsBehindTheCall :
    ({ State.reset with sp := 15 } : State).sp.val < 16 ∧
      ∃ t t' : State, exec (.call 0xABC) { State.reset with sp := 15 } = .next t ∧ t'.sp = t.sp ∧ t'.stack = t.stack :=
  ⟨by decide, _, _, rfl, rfl, rfl⟩

/-- The self-jump at 0x200, and the one at the last address that has two bytes. -/
theorem witness_SelfJumpIsAFixedPoint :
    ((0x200 : Nat) ≤ 4094 ∧ (sample 0x1200).Running ∧ (sample 0x1200).Idle ∧ (sample 0x1200).pc.toNat = 0x200 ∧
      256 * ((sample 0x1200).byteAt 0x200).toNat + ((sample 0x1200).byteAt (0x200 + 1)).toNat = 0x1000 + 0x200) ∧
    256 * ((State.place { State.reset with pc := 0xFFE } 0x1FFE).byteAt 4094).toNat +
      ((State.place { State.reset with pc := 0xFFE } 0x1FFE).byteAt (4094 + 1)).toNat = 0x1000 + 4094 :=
  ⟨⟨by decide, rfl, rfl, rfl, by decide +kernel⟩, by decide +kernel⟩

theorem witness_KeySkips :
    ((regs State.reset [(0, 15)]).reg 0).toNat = 15 ∧ 15 < ((regs State.reset [(0, 16)]).reg 0).toNat := by decide

theorem witness_ReadKeyTakesTheLowestOrSkips :
    (State.reset.setKey 15 true).key[15] = true ∧
      (∀ j, (hj : j < 15) → (State.reset.setKey 15 true).key[j] = false) ∧
      (State.reset.setKey 0 true).key[0] = true ∧ (∀ k, (h : k < 16) → State.reset.key[k] = false) := by
  decide +kernel

/-- For AddWritesSumAndCarry, SubtractionsWriteDifferenceAndNotBorrow, ShiftsMoveOneBitIntoVf: a destination that
is not `VF`. -/
theorem witness_destination_is_not_vf : (14 : Reg) ≠ 15 := by decide

/-- `n = 0` past the end of memory; the last row at 4095; a first row and a second row out of range. -/
theorem witness_DrawSetsCoveredCells :
    (0 < 16 ∧ (0 = 0 ∨ ({ State.reset with i := 5000 } : State).i.toNat + 0 ≤ 4096)) ∧
      (15 < 16 ∧ (15 = 0 ∨ ({ State.reset with i := 4081 } : State).i.toNat + 15 ≤ 4096)) ∧
      (0 < 1 ∧ 4096 ≤ ({ State.reset with i := 4096 } : State).i.toNat + 0) ∧
      (1 < 2 ∧ 4096 ≤ ({ State.reset with i := 4095 } : State).i.toNat + 1 ∧
        ∀ q, q < 1 → ({ State.reset with i := 4095 } : State).i.toNat + q < 4096) := by
  refine ⟨by decide, by decide, by decide, by decide, by decide, fun q hq => ?_⟩
  have : q = 0 := by omega
  subst this; decide

/-- The two collision clauses: a sprite on a true cell, and a sprite on an empty screen. -/
theorem witness_DrawSetsCoveredCells_collision :
    (∃ c : Cell, (lit State.reset [0]).fb[c.val] = true ∧ SpriteCovers (fun _ => 0x80) 0 0 1 c) ∧
      (∀ c : Cell, State.reset.fb[c.val] = true → ¬ SpriteCovers (fun _ => 0x80) 0 0 1 c) := by
  refine ⟨⟨0, rfl, 0, 0, by decide, by decide, by decide, by decide⟩, fun c h => ?_⟩
  simp [State.reset] at h

theorem witness_DrawCornerCases :
    (∃ t, exec (.drw 0 0 1) (lit State.reset [0]) = .next t ∧ (lit State.reset [0]).fb[0] = true) ∧
      [(0xFF : Byte), 0x81].length ≤ 15 :=
  ⟨⟨_, rfl, rfl⟩, by decide⟩

theorem witness_DrawingTwiceCollides :
    15 < 16 ∧ (0 : Reg) ≠ 15 ∧ (1 : Reg) ≠ 15 ∧ (15 = 0 ∨ ({ State.reset with i := 4081 } : State).i.toNat + 15 ≤ 4096) := by
  decide

/-- The digit F, at the reset state's font. -/
theorem witness_FontGlyphIsDrawn :
    15 < 16 ∧ ((regs State.reset [(0, 15)]).reg 0).toNat = 15 ∧
      ∀ k, (h : k < 80) → (regs State.reset [(0, 15)]).byteAt k = (regs State.reset [(0, 15)]).env.font[k] := by
  decide +kernel

/-- For every command: a running machine and a stopped one. -/
theorem witness_commands :
    State.reset.Running ∧ ({ State.reset with fault := some (.romTooLarge 3585) } : State).fault ≠ none :=
  ⟨rfl, by decide⟩

theorem witness_TimersAfterManyTicks :
    ({ State.reset with dt := 2, env := { Env.initial with pending := [.tickTimers, .tickTimers, .tickTimers] } } :
        State).Running ∧
      ({ State.reset with dt := 2, env := { Env.initial with pending := [.tickTimers, .tickTimers, .tickTimers] } } :
        State).env.pending = List.replicate 3 .tickTimers :=
  ⟨rfl, rfl⟩

theorem witness_LoadCopiesTheImageOrRaises :
    State.reset.Running ∧ (List.replicate 3584 (0xFF : Byte)).length ≤ 3584 ∧
      3584 < (List.replicate 3585 (0xFF : Byte)).length :=
  ⟨rfl, by rw [List.length_replicate], by rw [List.length_replicate]; decide⟩

/-- The first word of an image, and the last word of the largest image. -/
theorem witness_FetchSeesTheLoadedImage :
    State.reset.Running ∧ 0 + 1 < [(0x12 : Byte), 0x00].length ∧ State.reset.pc.toNat = 0x200 + 0 ∧
      3582 + 1 < (List.replicate 3584 (0xFF : Byte)).length ∧
      ({ State.reset with pc := 4094 } : State).pc.toNat = 0x200 + 3582 :=
  ⟨rfl, by decide, by decide, by rw [List.length_replicate]; decide, by decide⟩

theorem witness_PlacedWordIsTheNextInstruction :
    0xF029 < 65536 ∧ decodeTableWord 16 0xF029 = some (.ldF 0) ∧ decodeTableWord 16 0 = some .nop := by decide +kernel

end Sys2Proof.Tests
end

/-! ## No instruction writes memory (20_memory.md R60)

An instruction's meaning is either a chain of updates of its own state or the `commit` of a checked operation. The first
part says what the shared checked operations can do; the second carries "memory, font and keys are kept" through them. -/

namespace Sys2Proof.Machine

/-! ### What the checked operations can do -/

/-- A command that ends by committing a checked operation either did it or raised its fatal condition (R176). -/
theorem State.commit_map_cases {α : Type} {s t : State} {r : Except Fault α} {g : α → State}
    (h : s.commit (r.map g) = .next t) :
    (∃ a, r = .ok a ∧ t = g a) ∨ ∃ f, r = .error f ∧ t = s.raise f := by
  cases r with
  | ok a => cases h; exact .inl ⟨a, rfl, rfl⟩
  | error f => cases h; exact .inr ⟨f, rfl, rfl⟩

/-- A push that succeeds writes the stack and counts the entry (R28). -/
theorem State.push_ok_inv {s t : State} {w : Word} (h : s.push w = .ok t) :
    ∃ hsp : s.sp.val < 16,
      t = { s with stack := s.stack.set s.sp.val w, sp := ⟨s.sp.val + 1, by omega⟩ } := by
  by_cases hsp : s.sp.val < 16
  · rw [State.push_ok s w hsp] at h
    cases h
    exact ⟨hsp, rfl⟩
  · rw [State.push_full s w (by omega)] at h
    cases h

/-- A pop that succeeds answers the top entry and counts it off; the slot keeps its value (R29). -/
theorem State.pop_ok_inv {s t : State} {w : Word} (h : s.pop = .ok (w, t)) :
    0 < s.sp.val ∧ w = s.stack[s.sp.val - 1] ∧ t = { s with sp := ⟨s.sp.val - 1, by omega⟩ } := by
  by_cases hsp : 0 < s.sp.val
  · rw [State.pop_ok s hsp] at h
    cases h
    exact ⟨hsp, rfl, rfl⟩
  · rw [State.pop_empty s (by omega)] at h
    cases h

/-! ### What every instruction keeps -/

/-- The parts of the state that no instruction writes: the memory list, the font that its unlisted addresses read as,
and the keypad. -/
structure KeepsMemory (s t : State) : Prop where
  mem : t.mem = s.mem
  font : t.env.font = s.env.font
  key : t.key = s.key

/-- The same list over the same font reads the same at every address. -/
theorem KeepsMemory.bytesKept {s t : State} (h : KeepsMemory s t) : BytesKept s t := fun a => by
  rw [State.byteAt, State.byteAt, h.mem, h.font]

/-- A raise writes `FAULT` alone, so a committed operation keeps memory when its success does. -/
theorem KeepsMemory.of_commit_map {α : Type} {s t : State} {r : Except Fault α} {g : α → State}
    (h : s.commit (r.map g) = .next t) (hg : ∀ a, r = .ok a → KeepsMemory s (g a)) : KeepsMemory s t := by
  obtain ⟨a, ha, rfl⟩ | ⟨f, -, rfl⟩ := State.commit_map_cases h
  · exact hg a ha
  · exact ⟨rfl, rfl, rfl⟩

/-- The five instructions that can raise commit a checked operation; every other one updates fields that are not among
the kept ones. -/
theorem exec_keepsMemory {i : Instr} {s t : State} (h : exec i s = .next t) : KeepsMemory s t := by
  cases i with
  | ret =>
    refine .of_commit_map h fun (w, u) hpop => ?_
    obtain ⟨-, -, rfl⟩ := State.pop_ok_inv hpop
    exact ⟨rfl, rfl, rfl⟩
  | call nnn =>
    refine .of_commit_map h fun u hpush => ?_
    obtain ⟨-, rfl⟩ := State.push_ok_inv hpush
    exact ⟨rfl, rfl, rfl⟩
  | drw x y n => exact .of_commit_map h fun rows _ => ⟨rfl, rfl, rfl⟩
  | skp x => exact .of_commit_map h fun k _ => ⟨rfl, rfl, rfl⟩
  | sknp x => exact .of_commit_map h fun k _ => ⟨rfl, rfl, rfl⟩
  | ldVxK x =>
    simp only [exec, execLdVxK] at h
    split at h
    · cases h; exact ⟨rfl, rfl, rfl⟩
    · cases h; exact ⟨rfl, rfl, rfl⟩
  | _ => cases h; exact ⟨rfl, rfl, rfl⟩

/-- Settles O16: of the fields the statement does not give back to `s`, `mem` and `key` are the only ones. -/
theorem noInstructionWritesMemory : Obligations.NoInstructionWritesMemory := by
  intro i s t h
  have hk : KeepsMemory s t := exec_keepsMemory h
  exact ⟨hk.bytesKept, State.ext_fields rfl rfl rfl rfl rfl hk.mem rfl rfl hk.key rfl rfl rfl⟩

end Sys2Proof.Machine

/-! ## Decoding is the instruction's one row (30_encoding.md R74, R76)

A word decodes to `i` exactly when it selects the row `i` stands in and that row reads back `i`'s operands, so an
encoding is settled by looking at one row. -/

namespace Sys2Proof.Machine

open Sys2Proof.Laws.RowForm (rowNumber)

/-- Two rows of the table ask for different values of some bit that both of them test. -/
theorem opcodeTable_pairwise_disjoint :
    opcodeTable.Pairwise fun r q => r.pattern &&& q.mask ≠ q.pattern &&& r.mask := by decide

/-- Two rows that select one word agree on the bits that both of them test. -/
theorem Row.common_bits_of_selects {op : Word} {r q : Row} (hr : Row.selects op r) (hq : Row.selects op q) :
    r.pattern &&& q.mask = q.pattern &&& r.mask := by
  rw [← beq_iff_eq.1 hr, ← beq_iff_eq.1 hq, BitVec.and_assoc, BitVec.and_assoc, BitVec.and_comm r.mask]

/-- No word selects two rows. -/
theorem Row.index_eq_of_selects {op : Word} {j k : Nat} {r q : Row} (hj : opcodeTable[j]? = some r)
    (hk : opcodeTable[k]? = some q) (hr : Row.selects op r) (hq : Row.selects op q) : j = k := by
  obtain ⟨hjlt, rfl⟩ := List.getElem?_eq_some_iff.1 hj
  obtain ⟨hklt, rfl⟩ := List.getElem?_eq_some_iff.1 hk
  have hdisjoint := List.pairwise_iff_getElem.1 opcodeTable_pairwise_disjoint
  rcases Nat.lt_trichotomy j k with h | h | h
  · exact absurd (Row.common_bits_of_selects hr hq) (hdisjoint j k hjlt hklt h)
  · exact h
  · exact absurd (Row.common_bits_of_selects hq hr) (hdisjoint k j hklt hjlt h)

/-- Whatever the word, row `k` of the table builds an instruction of row `k`. -/
theorem rowNumber_build {k : Nat} {r : Row} (hk : opcodeTable[k]? = some r) (op : Word) :
    rowNumber (r.build op) = k := by
  have hrows : opcodeTable.map (fun r => rowNumber (r.build op)) = List.range 32 := rfl
  have hentry : (List.range 32)[k]? = some (rowNumber (r.build op)) := by
    rw [← hrows, List.getElem?_map, hk]; rfl
  obtain ⟨hlt, heq⟩ := List.getElem?_eq_some_iff.1 hentry
  rw [← heq, List.getElem_range]

/-- A word decodes to what the row it selects builds. -/
theorem decodeWord_of_selects {op : Word} {k : Nat} {r : Row} (hk : opcodeTable[k]? = some r)
    (hr : Row.selects op r) : decodeWord op = .instr (r.build op) := by
  rw [decodeWord]
  cases hfind : opcodeTable.find? (Row.selects op) with
  | none => exact absurd hr (List.find?_eq_none.1 hfind r (List.mem_of_getElem? hk))
  | some q =>
    obtain ⟨j, hj⟩ := List.mem_iff_getElem?.1 (List.mem_of_find?_eq_some hfind)
    have hjk : j = k := Row.index_eq_of_selects hj hk (List.find?_some hfind) hr
    subst hjk
    rw [Option.some.inj (hj.symm.trans hk)]

/-- A word that decodes selects a row that builds what it decodes to. -/
theorem exists_row_of_decodeWord {op : Word} {i : Instr} (h : decodeWord op = .instr i) :
    ∃ (k : Nat) (r : Row), opcodeTable[k]? = some r ∧ Row.selects op r ∧ r.build op = i := by
  rw [decodeWord] at h
  split at h
  · next r hfind =>
    obtain ⟨k, hk⟩ := List.mem_iff_getElem?.1 (List.mem_of_find?_eq_some hfind)
    exact ⟨k, r, hk, List.find?_some hfind, Verdict.instr.inj h⟩
  · cases h

/-- With `r` the row that `i` stands in: a word decodes to `i` exactly when it selects `r` and `r` builds `i`
from it. -/
theorem decodeWord_eq_instr_iff {i : Instr} {r : Row} (hr : opcodeTable[rowNumber i]? = some r) (op : Word) :
    decodeWord op = .instr i ↔ op &&& r.mask = r.pattern ∧ r.build op = i := by
  constructor
  · intro h
    obtain ⟨k, q, hk, hq, rfl⟩ := exists_row_of_decodeWord h
    rw [rowNumber_build hk op, hk] at hr
    cases hr
    exact ⟨beq_iff_eq.1 hq, rfl⟩
  · rintro ⟨hsel, rfl⟩
    exact decodeWord_of_selects hr (beq_iff_eq.2 hsel)

/-! ### Rows with a 12-bit target (R71, R73) -/

/-- The bits a target row tests, as a number. -/
theorem toNat_and_highNibble (op : Word) : (op &&& 0xF000).toNat = op.toNat / 4096 * 4096 := by
  have hshift : op &&& (0xF000 : Word) = op >>> 12 <<< 12 := by
    ext b hb
    interval_cases b <;> simp
  rw [hshift, BitVec.toNat_shiftLeft, BitVec.toNat_ushiftRight, Nat.shiftLeft_eq, Nat.shiftRight_eq_div_pow]
  omega

theorem toNat_fieldNNN (op : Word) : (fieldNNN op).toNat = op.toNat % 4096 := by
  simp [fieldNNN]

/-- A word selects a target row and holds the target `nnn` exactly when it is the row's pattern plus `nnn`. -/
theorem selects_target_iff {p : Word} (hp : p &&& 0xF000 = p) (op : Word) (nnn : Target) :
    op &&& 0xF000 = p ∧ fieldNNN op = nnn ↔ op.toNat = p.toNat + nnn.toNat := by
  have hpattern : p.toNat / 4096 * 4096 = p.toNat := by rw [← toNat_and_highNibble, hp]
  have htarget : nnn.toNat < 4096 := nnn.isLt
  rw [← BitVec.toNat_inj, ← BitVec.toNat_inj, toNat_and_highNibble, toNat_fieldNNN]
  omega

end Sys2Proof.Machine

/-! ## Instructions that set nothing but `PC` (40_engine_and_control.md R94, R96) -/

namespace Sys2Proof.Machine

/-- A write of `PC` is within every frame of registers. -/
theorem OnlyRegs.setPc (xs : List Reg) (s : State) (w : Word) : OnlyRegs xs s (s.setPc w) :=
  ⟨fun r _ => State.setPc_reg s w r, State.setPc_byteAt s w, rfl⟩

@[simp] theorem toNat_zextTarget (nnn : Target) : (zextTarget nnn).toNat = nnn.toNat :=
  BitVec.toNat_setWidth_of_le (by decide)

theorem exec_nop (s : State) : exec .nop s = .next (s.setPc (s.pc + 2)) := rfl

/-- The jump overwrites the `PC` that the fetch advanced (R91). -/
theorem exec_jp (nnn : Target) (s : State) : exec (.jp nnn) s = .next (s.setPc (zextTarget nnn)) := rfl

/-- NOP's row tests all 16 bits. -/
theorem isEncodedBy_nop : IsEncodedBy .nop 0x0000 := fun op => by
  have hmask : op &&& 0xFFFF = op := BitVec.and_allOnes
  rw [decodeWord_eq_instr_iff (r := ⟨0xFFFF, 0x0000, fun _ => .nop⟩) rfl, hmask, and_iff_left rfl,
    ← BitVec.toNat_inj]
  rfl

theorem isEncodedBy_jp (nnn : Target) : IsEncodedBy (.jp nnn) (0x1000 + nnn.toNat) := fun op => by
  rw [decodeWord_eq_instr_iff (r := ⟨0xF000, 0x1000, fun op => .jp (fieldNNN op)⟩) rfl, Instr.jp.injEq]
  exact selects_target_iff rfl op nnn

/-- Settles O22: NOP's whole effect is the fetch's advance of `PC`. -/
theorem nopOnlyAdvances : Obligations.NopOnlyAdvances :=
  ⟨fun s => ⟨_, exec_nop s, State.setPc_pc s _, OnlyRegs.setPc [] s _⟩, isEncodedBy_nop⟩

/-- Settles O24: JP's whole effect is one write of `PC`, and widening the target keeps its value. -/
theorem jumpSetsPc : Obligations.JumpSetsPc := fun nnn =>
  ⟨fun s => ⟨_, exec_jp nnn s, by rw [State.setPc_pc, toNat_zextTarget], OnlyRegs.setPc [] s _⟩,
    isEncodedBy_jp nnn⟩

end Sys2Proof.Machine

/-! ## Rows with register and immediate fields (30_encoding.md R71, R76)

A word is its four digits `d1 x y n`: the row fixes the digits its mask tests, and each operand field reads the rest. -/

namespace Sys2Proof.Machine

theorem val_fieldX (op : Word) : (fieldX op).val = op.toNat / 256 % 16 := by
  rw [fieldX, BitVec.val_toFin, BitVec.extractLsb'_toNat, Nat.shiftRight_eq_div_pow]

theorem val_fieldY (op : Word) : (fieldY op).val = op.toNat / 16 % 16 := by
  rw [fieldY, BitVec.val_toFin, BitVec.extractLsb'_toNat, Nat.shiftRight_eq_div_pow]

theorem toNat_fieldNN (op : Word) : (fieldNN op).toNat = op.toNat % 256 := by
  simp [fieldNN]

/-- The bits a row with two register fields tests, as a number: the first and the last digit. -/
theorem toNat_and_outerNibbles (op : Word) : (op &&& 0xF00F).toNat = op.toNat / 4096 * 4096 + op.toNat % 16 := by
  have hdisjoint : (op &&& 0xF000) &&& (op &&& 0x000F) = 0 := by
    ext b hb
    interval_cases b <;> simp
  have hlow : (op &&& 0x000F).toNat = op.toNat % 16 := by
    rw [BitVec.toNat_and]
    exact Nat.and_two_pow_sub_one_eq_mod op.toNat 4
  have hsum : op &&& 0xF00F = op &&& 0xF000 ||| op &&& 0x000F := by
    ext b hb
    interval_cases b <;> simp
  rw [hsum, ← BitVec.add_eq_or_of_and_eq_zero _ _ hdisjoint, BitVec.toNat_add_of_and_eq_zero hdisjoint,
    toNat_and_highNibble, hlow]

/-- A word selects an immediate row and holds `x` and `nn` exactly when it is the row's pattern plus both fields. -/
theorem selects_immediate_iff {p : Word} (hp : p &&& 0xF000 = p) (op : Word) (x : Reg) (nn : Byte) :
    op &&& 0xF000 = p ∧ fieldX op = x ∧ fieldNN op = nn ↔ op.toNat = p.toNat + 256 * x.val + nn.toNat := by
  have hpattern : p.toNat / 4096 * 4096 = p.toNat := by rw [← toNat_and_highNibble, hp]
  have hx : x.val < 16 := x.isLt
  have hnn : nn.toNat < 256 := nn.isLt
  rw [← BitVec.toNat_inj, Fin.ext_iff, ← BitVec.toNat_inj, toNat_and_highNibble, val_fieldX, toNat_fieldNN]
  omega

/-- A word selects a row with two register fields and holds `x` and `y` exactly when it is the row's pattern plus
both fields. -/
theorem selects_two_iff {p : Word} (hp : p &&& 0xF00F = p) (op : Word) (x y : Reg) :
    op &&& 0xF00F = p ∧ fieldX op = x ∧ fieldY op = y ↔ op.toNat = p.toNat + 256 * x.val + 16 * y.val := by
  have hpattern : p.toNat / 4096 * 4096 + p.toNat % 16 = p.toNat := by rw [← toNat_and_outerNibbles, hp]
  have hx : x.val < 16 := x.isLt
  have hy : y.val < 16 := y.isLt
  rw [← BitVec.toNat_inj, Fin.ext_iff, Fin.ext_iff, toNat_and_outerNibbles, val_fieldX, val_fieldY]
  omega

end Sys2Proof.Machine

/-! ## Skips on a comparison (41_skips.md R100 to R103)

The four skips differ in the condition they test and in nothing else. -/

namespace Sys2Proof.Machine

/-- The fetch's advance and a skip end in one of two values of `PC` (R104); `P` is what the tested Boolean says. -/
theorem State.pc_advance_skipIf (s : State) {c : Bool} {P : Prop} [Decidable P] (hc : c = true ↔ P) :
    (s.advance.skipIf c).pc = if P then s.pc + 4 else s.pc + 2 := by
  rw [State.skipIf_pc, State.advance_pc, pc_advance_skip, if_congr hc rfl rfl]

/-- An advance and a skip write `PC` alone. -/
theorem OnlyRegs.advance_skipIf (s : State) (c : Bool) : OnlyRegs [] s (s.advance.skipIf c) :=
  OnlyRegs.setPc [] s _

theorem exec_seImm (x : Reg) (nn : Byte) (s : State) :
    exec (.seImm x nn) s = .next (s.advance.skipIf (s.reg x == nn)) := rfl

theorem exec_sneImm (x : Reg) (nn : Byte) (s : State) :
    exec (.sneImm x nn) s = .next (s.advance.skipIf (s.reg x != nn)) := rfl

theorem exec_seReg (x y : Reg) (s : State) :
    exec (.seReg x y) s = .next (s.advance.skipIf (s.reg x == s.reg y)) := rfl

theorem exec_sneReg (x y : Reg) (s : State) :
    exec (.sneReg x y) s = .next (s.advance.skipIf (s.reg x != s.reg y)) := rfl

theorem isEncodedBy_seImm (x : Reg) (nn : Byte) :
    IsEncodedBy (.seImm x nn) (0x3000 + 256 * x.val + nn.toNat) := fun op => by
  rw [decodeWord_eq_instr_iff (r := ⟨0xF000, 0x3000, fun op => .seImm (fieldX op) (fieldNN op)⟩) rfl,
    Instr.seImm.injEq]
  exact selects_immediate_iff rfl op x nn

theorem isEncodedBy_sneImm (x : Reg) (nn : Byte) :
    IsEncodedBy (.sneImm x nn) (0x4000 + 256 * x.val + nn.toNat) := fun op => by
  rw [decodeWord_eq_instr_iff (r := ⟨0xF000, 0x4000, fun op => .sneImm (fieldX op) (fieldNN op)⟩) rfl,
    Instr.sneImm.injEq]
  exact selects_immediate_iff rfl op x nn

theorem isEncodedBy_seReg (x y : Reg) :
    IsEncodedBy (.seReg x y) (0x5000 + 256 * x.val + 16 * y.val) := fun op => by
  rw [decodeWord_eq_instr_iff (r := ⟨0xF00F, 0x5000, fun op => .seReg (fieldX op) (fieldY op)⟩) rfl,
    Instr.seReg.injEq]
  exact selects_two_iff rfl op x y

theorem isEncodedBy_sneReg (x y : Reg) :
    IsEncodedBy (.sneReg x y) (0x9000 + 256 * x.val + 16 * y.val) := fun op => by
  rw [decodeWord_eq_instr_iff (r := ⟨0xF00F, 0x9000, fun op => .sneReg (fieldX op) (fieldY op)⟩) rfl,
    Instr.sneReg.injEq]
  exact selects_two_iff rfl op x y

/-- Settles O29: each skip tests its comparison as a Boolean, and its word is read off its one row. -/
theorem registerSkips : Obligations.RegisterSkips := by
  refine ⟨fun x nn => ⟨fun s => ?_, fun s => ?_, isEncodedBy_seImm x nn, isEncodedBy_sneImm x nn⟩,
    fun x y => ⟨fun s => ?_, fun s => ?_, isEncodedBy_seReg x y, isEncodedBy_sneReg x y⟩⟩
  · exact ⟨_, exec_seImm x nn s, s.pc_advance_skipIf beq_iff_eq, .advance_skipIf s _⟩
  · exact ⟨_, exec_sneImm x nn s, s.pc_advance_skipIf bne_iff_ne, .advance_skipIf s _⟩
  · exact ⟨_, exec_seReg x y s, s.pc_advance_skipIf beq_iff_eq, .advance_skipIf s _⟩
  · exact ⟨_, exec_sneReg x y s, s.pc_advance_skipIf bne_iff_ne, .advance_skipIf s _⟩

end Sys2Proof.Machine

/-! ## Writes of one register without a flag (42_register_alu.md R111 to R113, R121)

The two loads, ADD Vx, nn and OR advance `PC` and write `V[x]`; only the byte they write differs. -/

namespace Sys2Proof.Machine

open Sys2Proof.Laws.RowForm (rowNumber)

/-! ### The word of a row with register and immediate fields -/

/-- The word of an instruction whose row reads `x` and `nn` is the row's pattern plus both fields. -/
theorem isEncodedBy_immediate (i : Reg → Byte → Instr) {p : Word} (hp : p &&& 0xF000 = p) {x : Reg} {nn : Byte}
    (hrow : opcodeTable[rowNumber (i x nn)]? = some ⟨0xF000, p, fun op => i (fieldX op) (fieldNN op)⟩)
    (hinj : ∀ x' nn', i x' nn' = i x nn ↔ x' = x ∧ nn' = nn) :
    IsEncodedBy (i x nn) (p.toNat + 256 * x.val + nn.toNat) := fun op => by
  rw [decodeWord_eq_instr_iff hrow, hinj]
  exact selects_immediate_iff hp op x nn

/-- The word of an instruction whose row reads `x` and `y` is the row's pattern plus both fields. -/
theorem isEncodedBy_two (i : Reg → Reg → Instr) {p : Word} (hp : p &&& 0xF00F = p) {x y : Reg}
    (hrow : opcodeTable[rowNumber (i x y)]? = some ⟨0xF00F, p, fun op => i (fieldX op) (fieldY op)⟩)
    (hinj : ∀ x' y', i x' y' = i x y ↔ x' = x ∧ y' = y) :
    IsEncodedBy (i x y) (p.toNat + 256 * x.val + 16 * y.val) := fun op => by
  rw [decodeWord_eq_instr_iff hrow, hinj]
  exact selects_two_iff hp op x y

theorem isEncodedBy_ldImm (x : Reg) (nn : Byte) : IsEncodedBy (.ldImm x nn) (0x6000 + 256 * x.val + nn.toNat) :=
  isEncodedBy_immediate .ldImm (p := 0x6000) rfl rfl fun _ _ => .of_eq (Instr.ldImm.injEq ..)

theorem isEncodedBy_addImm (x : Reg) (nn : Byte) : IsEncodedBy (.addImm x nn) (0x7000 + 256 * x.val + nn.toNat) :=
  isEncodedBy_immediate .addImm (p := 0x7000) rfl rfl fun _ _ => .of_eq (Instr.addImm.injEq ..)

theorem isEncodedBy_ldReg (x y : Reg) : IsEncodedBy (.ldReg x y) (0x8000 + 256 * x.val + 16 * y.val) :=
  isEncodedBy_two .ldReg (p := 0x8000) rfl rfl fun _ _ => .of_eq (Instr.ldReg.injEq ..)

theorem isEncodedBy_orReg (x y : Reg) : IsEncodedBy (.orReg x y) (0x8001 + 256 * x.val + 16 * y.val) :=
  isEncodedBy_two .orReg (p := 0x8001) rfl rfl fun _ _ => .of_eq (Instr.orReg.injEq ..)

/-! ### What the four instructions write -/

theorem exec_ldImm (x : Reg) (nn : Byte) (s : State) : exec (.ldImm x nn) s = .next (s.advance.setReg x nn) := rfl

theorem exec_addImm (x : Reg) (nn : Byte) (s : State) :
    exec (.addImm x nn) s = .next (s.advance.setReg x (s.reg x + nn)) := rfl

theorem exec_ldReg (x y : Reg) (s : State) : exec (.ldReg x y) s = .next (s.advance.setReg x (s.reg y)) := rfl

theorem exec_orReg (x y : Reg) (s : State) :
    exec (.orReg x y) s = .next (s.advance.setReg x (s.orOperands x y)) := rfl

theorem State.advance_setReg_pc (s : State) (x : Reg) (b : Byte) : (s.advance.setReg x b).pc = s.pc + 2 := rfl

/-- An advance and a write of `V[x]` leave every other register, `VF` included, and every other field. -/
theorem OnlyRegs.advance_setReg (s : State) (x : Reg) (b : Byte) : OnlyRegs [x] s (s.advance.setReg x b) := by
  refine ⟨fun r hr => ?_, State.setReg_byteAt s.advance x b, rfl⟩
  have hrx : r ≠ x := fun h => hr (List.mem_singleton.2 h)
  rw [State.setReg_reg, if_neg hrx, State.advance_reg]

/-- An advance and a write of `V[x]`, as the statements on such an instruction have it: the byte written is `b`. -/
theorem exists_next_of_setReg {i : Instr} {s : State} {x : Reg} {b : Byte}
    (h : exec i s = .next (s.advance.setReg x b)) :
    ∃ t, exec i s = .next t ∧ t.reg x = b ∧ t.pc = s.pc + 2 ∧ OnlyRegs [x] s t :=
  ⟨_, h, State.setReg_reg_self _ x b, s.advance_setReg_pc x b, .advance_setReg s x b⟩

/-- Bit `b` of the operand of OR; the option `BITOPS_ALL_OR` is not read (R113). -/
theorem State.getLsbD_orOperands (s : State) (x y : Reg) (b : Nat) :
    (s.orOperands x y).getLsbD b = ((s.reg x).getLsbD b || (s.reg y).getLsbD b) :=
  BitVec.getLsbD_or

/-- Settles O32: both loads are one write of `V[x]`, of the immediate and of the old `V[y]`. -/
theorem registerLoads : Obligations.RegisterLoads :=
  ⟨fun x nn => ⟨fun s => exists_next_of_setReg (exec_ldImm x nn s), isEncodedBy_ldImm x nn⟩,
    fun x y => ⟨fun s => exists_next_of_setReg (exec_ldReg x y s), isEncodedBy_ldReg x y⟩⟩

/-- Settles O33: the 8-bit sum is the sum modulo 256, and its carry goes nowhere. -/
theorem addImmediateWrapsWithoutFlag : Obligations.AddImmediateWrapsWithoutFlag := by
  refine fun x nn => ⟨fun s => ?_, isEncodedBy_addImm x nn⟩
  obtain ⟨t, hexec, hreg, hpc, hframe⟩ := exists_next_of_setReg (exec_addImm x nn s)
  exact ⟨t, hexec, by rw [hreg, BitVec.toNat_add], hpc, hframe⟩

/-- Settles O34: `V[x]` becomes the operands' OR, which is taken bit by bit and without a look at the option. -/
theorem orCombinesBits : Obligations.OrCombinesBits := by
  refine fun x y => ⟨fun s => ?_, isEncodedBy_orReg x y⟩
  obtain ⟨t, hexec, hreg, hpc, hframe⟩ := exists_next_of_setReg (exec_orReg x y s)
  exact ⟨t, hexec, fun b => by rw [hreg, State.getLsbD_orOperands], hpc, hframe⟩

end Sys2Proof.Machine

/-! ## The index register (43_index.md R130) -/

namespace Sys2Proof.Machine

theorem isEncodedBy_ldI (nnn : Target) : IsEncodedBy (.ldI nnn) (0xA000 + nnn.toNat) := fun op => by
  rw [decodeWord_eq_instr_iff (r := ⟨0xF000, 0xA000, fun op => .ldI (fieldNNN op)⟩) rfl, Instr.ldI.injEq]
  exact selects_target_iff rfl op nnn

theorem exec_ldI (nnn : Target) (s : State) : exec (.ldI nnn) s = .next (s.advance.setI (zextTarget nnn)) := rfl

/-- An advance and a write of `I`, as the statements on an index instruction have it: the word written is `w`, and
every register, every byte and every field but `PC` and `I` is kept. -/
theorem exists_next_of_setI {i : Instr} {s : State} {w : Word} (h : exec i s = .next (s.advance.setI w)) :
    ∃ t, exec i s = .next t ∧ t.i = w ∧ t.pc = s.pc + 2 ∧ (∀ r, t.reg r = s.reg r) ∧ BytesKept s t ∧
      { t with pc := s.pc, i := s.i } = s :=
  ⟨_, h, State.setI_i _ w, State.advance_pc s, State.advance_reg s, State.advance_byteAt s, rfl⟩

/-- Settles O40: LD I's whole effect is one write of `I`, and widening the immediate keeps its value. -/
theorem loadIndexSetsI : Obligations.LoadIndexSetsI := by
  refine fun nnn => ⟨fun s => ?_, isEncodedBy_ldI nnn⟩
  obtain ⟨t, hexec, hi, hpc, hframe⟩ := exists_next_of_setI (exec_ldI nnn s)
  exact ⟨t, hexec, by rw [hi, toNat_zextTarget], hpc, hframe⟩

end Sys2Proof.Machine

/-! ## Clearing the framebuffer (44_display.md R140) -/

namespace Sys2Proof.Machine

open Sys2Proof.Laws.RowForm (rowNumber)

/-- The word of an instruction whose row tests all 16 bits and has no operand field is the row's pattern. -/
theorem isEncodedBy_fullWord {i : Instr} {p : Word} (hrow : opcodeTable[rowNumber i]? = some ⟨0xFFFF, p, fun _ => i⟩) :
    IsEncodedBy i p.toNat := fun op => by
  have hmask : op &&& 0xFFFF = op := BitVec.and_allOnes
  rw [decodeWord_eq_instr_iff hrow, hmask, and_iff_left rfl, BitVec.toNat_inj]

theorem isEncodedBy_cls : IsEncodedBy .cls 0x00E0 := isEncodedBy_fullWord (p := 0x00E0) rfl

theorem exec_cls (s : State) : exec .cls s = .next (s.advance.setFb (Vector.replicate 2048 false)) := rfl

/-- An advance and a write of `FB` keep every register, `VF` included, every byte and every field but `PC` and
`FB`. -/
theorem State.advance_setFb_frame (s : State) (fb : Framebuffer) :
    (∀ r, (s.advance.setFb fb).reg r = s.reg r) ∧ BytesKept s (s.advance.setFb fb) ∧
      { s.advance.setFb fb with pc := s.pc, fb := s.fb } = s :=
  ⟨State.advance_reg s, State.advance_byteAt s, rfl⟩

/-- Settles O42: CLS's whole effect is one write of `FB`, of 2048 copies of false. -/
theorem clearScreenClearsEveryCell : Obligations.ClearScreenClearsEveryCell := by
  refine ⟨fun s => ⟨_, exec_cls s, fun c => ?_, State.advance_pc s, s.advance_setFb_frame _⟩, isEncodedBy_cls⟩
  rw [State.setFb_fb]
  exact Vector.getElem_replicate c.isLt

end Sys2Proof.Machine

/-! ## The timer instructions (46_timers.md R160 to R162)

Their rows test the first digit and the low byte of a word and read `x` from the digit between. -/

namespace Sys2Proof.Machine

open Sys2Proof.Laws.RowForm (rowNumber)

/-! ### The word of a row with one register field -/

/-- The bits a row with one register field tests, as a number: the first digit and the low byte. The masked word is
that of an immediate row whose `x` is 0. -/
theorem toNat_and_digitAndByte (op : Word) : (op &&& 0xF0FF).toNat = op.toNat / 4096 * 4096 + op.toNat % 256 := by
  have hdigit : (op &&& 0xF0FF) &&& 0xF000 = op &&& 0xF000 := BitVec.and_assoc ..
  have hx : fieldX (op &&& 0xF0FF) = 0 := by
    rw [fieldX, BitVec.extractLsb'_and]
    exact congrArg BitVec.toFin BitVec.and_zero
  have hbyte : fieldNN (op &&& 0xF0FF) = fieldNN op := by
    rw [fieldNN, BitVec.extractLsb'_and]
    exact BitVec.and_allOnes
  have hpattern : (op &&& 0xF000) &&& 0xF000 = op &&& 0xF000 := BitVec.and_assoc ..
  rw [(selects_immediate_iff hpattern _ 0 (fieldNN op)).1 ⟨hdigit, hx, hbyte⟩, toNat_and_highNibble, toNat_fieldNN,
    Fin.val_zero, Nat.mul_zero, Nat.add_zero]

/-- A word selects a row with one register field and holds `x` exactly when it is the row's pattern plus the field. -/
theorem selects_one_iff {p : Word} (hp : p &&& 0xF0FF = p) (op : Word) (x : Reg) :
    op &&& 0xF0FF = p ∧ fieldX op = x ↔ op.toNat = p.toNat + 256 * x.val := by
  have hpattern : p.toNat / 4096 * 4096 + p.toNat % 256 = p.toNat := by rw [← toNat_and_digitAndByte, hp]
  have hx : x.val < 16 := x.isLt
  rw [← BitVec.toNat_inj, Fin.ext_iff, toNat_and_digitAndByte, val_fieldX]
  omega

/-- The word of an instruction whose row reads `x` alone is the row's pattern plus the field. -/
theorem isEncodedBy_one (i : Reg → Instr) {p : Word} (hp : p &&& 0xF0FF = p) {x : Reg}
    (hrow : opcodeTable[rowNumber (i x)]? = some ⟨0xF0FF, p, fun op => i (fieldX op)⟩)
    (hinj : ∀ x', i x' = i x ↔ x' = x) : IsEncodedBy (i x) (p.toNat + 256 * x.val) := fun op => by
  rw [decodeWord_eq_instr_iff hrow, hinj]
  exact selects_one_iff hp op x

theorem isEncodedBy_ldVxDT (x : Reg) : IsEncodedBy (.ldVxDT x) (0xF007 + 256 * x.val) :=
  isEncodedBy_one .ldVxDT (p := 0xF007) rfl rfl fun _ => .of_eq (Instr.ldVxDT.injEq ..)

theorem isEncodedBy_ldDT (x : Reg) : IsEncodedBy (.ldDT x) (0xF015 + 256 * x.val) :=
  isEncodedBy_one .ldDT (p := 0xF015) rfl rfl fun _ => .of_eq (Instr.ldDT.injEq ..)

theorem isEncodedBy_ldST (x : Reg) : IsEncodedBy (.ldST x) (0xF018 + 256 * x.val) :=
  isEncodedBy_one .ldST (p := 0xF018) rfl rfl fun _ => .of_eq (Instr.ldST.injEq ..)

/-! ### What the three instructions write -/

theorem exec_ldVxDT (x : Reg) (s : State) : exec (.ldVxDT x) s = .next (s.advance.setReg x s.dt) := rfl

theorem exec_ldDT (x : Reg) (s : State) : exec (.ldDT x) s = .next (s.advance.setDt (s.reg x)) := rfl

theorem exec_ldST (x : Reg) (s : State) : exec (.ldST x) s = .next (s.advance.setSt (s.reg x)) := rfl

/-- An advance and a write of `DT` keep every register, every byte and every field but `PC` and `DT`. -/
theorem State.advance_setDt_frame (s : State) (b : Byte) :
    (∀ r, (s.advance.setDt b).reg r = s.reg r) ∧ BytesKept s (s.advance.setDt b) ∧
      { s.advance.setDt b with pc := s.pc, dt := s.dt } = s :=
  ⟨State.advance_reg s, State.advance_byteAt s, rfl⟩

/-- An advance and a write of `ST` keep every register, every byte and every field but `PC` and `ST`. -/
theorem State.advance_setSt_frame (s : State) (b : Byte) :
    (∀ r, (s.advance.setSt b).reg r = s.reg r) ∧ BytesKept s (s.advance.setSt b) ∧
      { s.advance.setSt b with pc := s.pc, st := s.st } = s :=
  ⟨State.advance_reg s, State.advance_byteAt s, rfl⟩

/-- Settles O47: each timer instruction is an advance and one write, of `V[x]`, `DT` or `ST`, and its word is read off
its one row. -/
theorem timerInstructions : Obligations.TimerInstructions := by
  refine fun x => ⟨fun s => ?_, fun s => ?_, fun s => ?_, isEncodedBy_ldVxDT x, isEncodedBy_ldDT x,
    isEncodedBy_ldST x⟩
  · exact exists_next_of_setReg (exec_ldVxDT x s)
  · exact ⟨_, exec_ldDT x s, State.setDt_dt _ _, State.advance_pc s, s.advance_setDt_frame _⟩
  · exact ⟨_, exec_ldST x s, State.setSt_st _ _, State.advance_pc s, s.advance_setSt_frame _⟩

end Sys2Proof.Machine

/-! ## Which command can raise which fatal condition (60_exceptions.md R171)

A condition that TICK latches comes from the fetch, from the decoder or from one of the checked operations of an
instruction: the call stack, the key operand, the rows of a sprite. None of them answers `RomTooLarge`, which LOAD's test of
the image's length alone does. -/

namespace Sys2Proof.Machine

/-! ### The condition each checked operation answers -/

theorem State.push_error_inv {s : State} {w : Word} {f : Fault} (h : s.push w = .error f) :
    s.sp.val = 16 ∧ f = .stackOverflow w := by
  by_cases hsp : s.sp.val < 16
  · rw [State.push_ok s w hsp] at h
    cases h
  · have hfull : s.sp.val = 16 := by omega
    rw [State.push_full s w hfull] at h
    cases h
    exact ⟨hfull, rfl⟩

theorem State.pop_error_inv {s : State} {f : Fault} (h : s.pop = .error f) :
    s.sp.val = 0 ∧ f = .stackUnderflow := by
  by_cases hsp : 0 < s.sp.val
  · rw [State.pop_ok s hsp] at h
    cases h
  · have hempty : s.sp.val = 0 := by omega
    rw [State.pop_empty s hempty] at h
    cases h
    exact ⟨hempty, rfl⟩

theorem State.keyOf_error_inv {s : State} {x : Reg} {f : Fault} (h : s.keyOf x = .error f) :
    15 < (s.reg x).toNat ∧ f = .keyIndexOutOfRange (s.reg x) := by
  by_cases hkey : (s.reg x).toNat < 16
  · rw [State.keyOf_ok s x hkey] at h
    cases h
  · have hrange : 15 < (s.reg x).toNat := by omega
    rw [State.keyOf_error s x hrange] at h
    cases h
    exact ⟨hrange, rfl⟩

/-- A read of rows that fails has a row out of range; the one reported is the first, row `4096 - a`. -/
theorem State.readBytes_error_inv {s : State} {a n : Nat} {f : Fault} (h : s.readBytes a n = .error f) :
    ∃ r, r < n ∧ 4096 ≤ a + r ∧ f = .memoryOutOfRange (a + r) := by
  by_cases hin : n = 0 ∨ a + n ≤ 4096
  · rw [State.readBytes_ok s a n hin] at h
    cases h
  · have hrow : 4096 - a < n := by omega
    have hout : 4096 ≤ a + (4096 - a) := by omega
    rw [State.readBytes_error s a n (4096 - a) hrow hout fun q hq => by omega] at h
    cases h
    exact ⟨_, hrow, hout, rfl⟩

theorem State.fetch_error_inv {s : State} {f : Fault} (h : s.fetch = .error f) :
    ∃ addr, f = .memoryOutOfRange addr := by
  obtain ⟨-, hfetch⟩ | ⟨-, hfetch⟩ | ⟨-, hfetch⟩ := s.fetch_cases
  · rw [hfetch] at h; cases h; exact ⟨_, rfl⟩
  · rw [hfetch] at h; cases h; exact ⟨_, rfl⟩
  · rw [hfetch] at h; cases h

/-! ### What TICK can do to `FAULT` -/

/-- `t` has the `FAULT` of `s`, or it is `s` with a condition other than LOAD's raised. -/
def KeepsFaultOrRaises (s t : State) : Prop :=
  t.fault = s.fault ∨ ∃ f, (∀ len, f ≠ .romTooLarge len) ∧ t = s.raise f

/-- A committed operation does what its success does, or raises the condition it answered. -/
theorem KeepsFaultOrRaises.of_commit_map {α : Type} {s t : State} {r : Except Fault α} {g : α → State}
    (h : s.commit (r.map g) = .next t) (hok : ∀ a, r = .ok a → (g a).fault = s.fault)
    (herror : ∀ f, r = .error f → ∀ len, f ≠ .romTooLarge len) : KeepsFaultOrRaises s t := by
  obtain ⟨a, ha, rfl⟩ | ⟨f, hf, rfl⟩ := State.commit_map_cases h
  · exact .inl (hok a ha)
  · exact .inr ⟨f, herror f hf, rfl⟩

/-- The two key skips end alike: the key operand is their one checked operation. -/
theorem KeepsFaultOrRaises.of_commit_keyOf {s t : State} {x : Reg} {c : Key → Bool}
    (h : s.commit ((s.keyOf x).map fun k => s.advance.skipIf (c k)) = .next t) : KeepsFaultOrRaises s t :=
  .of_commit_map h (fun _ _ => rfl) fun f hkey => by
    obtain ⟨-, rfl⟩ := State.keyOf_error_inv hkey
    exact nofun

/-- The five instructions that can raise commit a checked operation; no other one writes `FAULT`. -/
theorem exec_keepsFaultOrRaises {i : Instr} {s t : State} (h : exec i s = .next t) : KeepsFaultOrRaises s t := by
  cases i with
  | ret =>
    refine .of_commit_map h (fun (w, u) hpop => ?_) fun f hpop => ?_
    · obtain ⟨-, -, rfl⟩ := State.pop_ok_inv hpop
      rfl
    · obtain ⟨-, rfl⟩ := State.pop_error_inv hpop
      exact nofun
  | call nnn =>
    refine .of_commit_map h (fun u hpush => ?_) fun f hpush => ?_
    · obtain ⟨-, rfl⟩ := State.push_ok_inv hpush
      rfl
    · obtain ⟨-, rfl⟩ := State.push_error_inv hpush
      exact nofun
  | drw x y n =>
    refine .of_commit_map h (fun rows _ => rfl) fun f hread => ?_
    obtain ⟨r, -, -, rfl⟩ := State.readBytes_error_inv hread
    exact nofun
  | skp x => exact .of_commit_keyOf h
  | sknp x => exact .of_commit_keyOf h
  | ldVxK x =>
    simp only [exec, execLdVxK] at h
    split at h
    · cases h; exact .inl rfl
    · cases h; exact .inl rfl
  | _ => cases h; exact .inl rfl

/-- The fetch and the decoder raise their own conditions; the rest is the instruction's. -/
theorem fetchExecute_keepsFaultOrRaises {s t : State} (h : fetchExecute s = .next t) : KeepsFaultOrRaises s t := by
  unfold fetchExecute at h
  split at h
  next f hfetch =>
    obtain ⟨addr, rfl⟩ := State.fetch_error_inv hfetch
    cases h
    exact .inr ⟨.memoryOutOfRange addr, nofun, rfl⟩
  next op _ =>
    split at h
    · cases h
      exact .inr ⟨.unimplementedOpcode op, nofun, rfl⟩
    · exact exec_keepsFaultOrRaises h

/-! ### The commands on a running machine -/

theorem State.Running.fault_ne_some {s : State} (hs : s.Running) (f : Fault) : s.fault ≠ some f := by
  rw [hs]
  exact nofun

theorem State.Running.not_stopped {s : State} (hs : s.Running) : ¬ s.stopped = true := by
  rw [State.stopped, hs, Option.isSome_none]
  exact Bool.false_ne_true

theorem perform_tick_of_running {s : State} (hs : s.Running) : perform .tick s = fetchExecute s :=
  if_neg hs.not_stopped

theorem perform_load_of_running (bytes : List Byte) {s : State} (hs : s.Running) :
    perform (.load bytes) s =
      if Config.romMax < bytes.length then s.commit (.error (.romTooLarge bytes.length))
      else .next (s.writeBytes Config.progBase bytes) :=
  if_neg hs.not_stopped

theorem perform_tickTimers_of_running {s : State} (hs : s.Running) :
    perform .tickTimers s =
      .next (((s.setDt (countDown s.dt)).setSt (countDown s.st)).reply (.toneCue (s.st == 1))) :=
  if_neg hs.not_stopped

theorem perform_keypress_of_running (k : Key) (p : Bool) {s : State} (hs : s.Running) :
    perform (.keypress k p) s = .next (s.setKey k p) :=
  if_neg hs.not_stopped

theorem perform_display_of_running {s : State} (hs : s.Running) :
    perform .display s = .next (s.reply (.cells s.fb)) :=
  if_neg hs.not_stopped

theorem perform_tick_fault_ne_romTooLarge {s t : State} {f : Fault} (hs : s.Running) (h : perform .tick s = .next t)
    (hf : t.fault = some f) (len : Nat) : f ≠ .romTooLarge len := by
  rw [perform_tick_of_running hs] at h
  obtain hkept | ⟨g, hg, rfl⟩ := fetchExecute_keepsFaultOrRaises h
  · have ht : t.Running := hkept.trans hs
    exact absurd hf (ht.fault_ne_some f)
  · cases hf
    exact hg len

/-- LOAD's one condition is its test of the image's length; the copy writes memory alone. -/
theorem perform_load_fault_eq_romTooLarge {bytes : List Byte} {s t : State} {f : Fault} (hs : s.Running)
    (h : perform (.load bytes) s = .next t) (hf : t.fault = some f) : f = .romTooLarge bytes.length := by
  rw [perform_load_of_running bytes hs] at h
  split at h
  · cases h
    cases hf
    rfl
  · cases h
    rw [State.writeBytes_fault] at hf
    exact absurd hf (hs.fault_ne_some f)

theorem perform_running {c : Command} {s t : State} (hs : s.Running) (h : perform c s = .next t)
    (hload : ∀ bytes, c ≠ .load bytes) (htick : c ≠ .tick) : t.Running := by
  cases c with
  | reset => cases h; rfl
  | load bytes => exact absurd rfl (hload bytes)
  | tick => exact absurd rfl htick
  | tickTimers => rw [perform_tickTimers_of_running hs] at h; cases h; exact hs
  | keypress k p => rw [perform_keypress_of_running k p hs] at h; cases h; exact hs
  | display => rw [perform_display_of_running hs] at h; cases h; exact hs

/-- Settles O12: LOAD's one raise is that of its length test, TICK's are never `RomTooLarge`, and after any other command
the machine still runs. -/
theorem commandsRaiseOnlyTheirConditions : Obligations.CommandsRaiseOnlyTheirConditions := by
  intro c s t f hs h hf
  cases c with
  | load bytes => exact .inl ⟨bytes, bytes.length, rfl, perform_load_fault_eq_romTooLarge hs h hf⟩
  | tick => exact .inr ⟨rfl, perform_tick_fault_ne_romTooLarge hs h hf⟩
  | _ =>
    have ht : t.Running := perform_running hs h nofun nofun
    exact absurd hf (ht.fault_ne_some f)

end Sys2Proof.Machine

/-! ## The round trip of encoding and decoding (30_encoding.md R74, R83)

The word of a well-formed instruction is the only word that decodes to it, and it is the row's pattern plus the operand
fields. With that known of every instruction, both directions of the round trip are a comparison of two numbers. -/

namespace Sys2Proof.Machine

open Sys2Proof.Laws.RowForm (rowNumber or_and_mask or_nothing target_clear immediate_clear)

/-! ### The words of the other instructions -/

/-- The word of an instruction whose row reads a target is the row's pattern plus the target. -/
theorem isEncodedBy_target (i : Target → Instr) {p : Word} (hp : p &&& 0xF000 = p) {nnn : Target}
    (hrow : opcodeTable[rowNumber (i nnn)]? = some ⟨0xF000, p, fun op => i (fieldNNN op)⟩)
    (hinj : ∀ nnn', i nnn' = i nnn ↔ nnn' = nnn) : IsEncodedBy (i nnn) (p.toNat + nnn.toNat) := fun op => by
  rw [decodeWord_eq_instr_iff hrow, hinj]
  exact selects_target_iff hp op nnn

theorem isEncodedBy_ret : IsEncodedBy .ret 0x00EE := isEncodedBy_fullWord (p := 0x00EE) rfl

theorem isEncodedBy_call (nnn : Target) : IsEncodedBy (.call nnn) (0x2000 + nnn.toNat) :=
  isEncodedBy_target .call (p := 0x2000) rfl rfl fun _ => .of_eq (Instr.call.injEq ..)

theorem isEncodedBy_jpV0 (nnn : Target) : IsEncodedBy (.jpV0 nnn) (0xB000 + nnn.toNat) :=
  isEncodedBy_target .jpV0 (p := 0xB000) rfl rfl fun _ => .of_eq (Instr.jpV0.injEq ..)

theorem isEncodedBy_andReg (x y : Reg) : IsEncodedBy (.andReg x y) (0x8002 + 256 * x.val + 16 * y.val) :=
  isEncodedBy_two .andReg (p := 0x8002) rfl rfl fun _ _ => .of_eq (Instr.andReg.injEq ..)

theorem isEncodedBy_xorReg (x y : Reg) : IsEncodedBy (.xorReg x y) (0x8003 + 256 * x.val + 16 * y.val) :=
  isEncodedBy_two .xorReg (p := 0x8003) rfl rfl fun _ _ => .of_eq (Instr.xorReg.injEq ..)

theorem isEncodedBy_addReg (x y : Reg) : IsEncodedBy (.addReg x y) (0x8004 + 256 * x.val + 16 * y.val) :=
  isEncodedBy_two .addReg (p := 0x8004) rfl rfl fun _ _ => .of_eq (Instr.addReg.injEq ..)

theorem isEncodedBy_sub (x y : Reg) : IsEncodedBy (.sub x y) (0x8005 + 256 * x.val + 16 * y.val) :=
  isEncodedBy_two .sub (p := 0x8005) rfl rfl fun _ _ => .of_eq (Instr.sub.injEq ..)

theorem isEncodedBy_shr (x y : Reg) : IsEncodedBy (.shr x y) (0x8006 + 256 * x.val + 16 * y.val) :=
  isEncodedBy_two .shr (p := 0x8006) rfl rfl fun _ _ => .of_eq (Instr.shr.injEq ..)

theorem isEncodedBy_subn (x y : Reg) : IsEncodedBy (.subn x y) (0x8007 + 256 * x.val + 16 * y.val) :=
  isEncodedBy_two .subn (p := 0x8007) rfl rfl fun _ _ => .of_eq (Instr.subn.injEq ..)

theorem isEncodedBy_shl (x y : Reg) : IsEncodedBy (.shl x y) (0x800E + 256 * x.val + 16 * y.val) :=
  isEncodedBy_two .shl (p := 0x800E) rfl rfl fun _ _ => .of_eq (Instr.shl.injEq ..)

theorem isEncodedBy_rnd (x : Reg) (nn : Byte) : IsEncodedBy (.rnd x nn) (0xC000 + 256 * x.val + nn.toNat) :=
  isEncodedBy_immediate .rnd (p := 0xC000) rfl rfl fun _ _ => .of_eq (Instr.rnd.injEq ..)

theorem isEncodedBy_skp (x : Reg) : IsEncodedBy (.skp x) (0xE09E + 256 * x.val) :=
  isEncodedBy_one .skp (p := 0xE09E) rfl rfl fun _ => .of_eq (Instr.skp.injEq ..)

theorem isEncodedBy_sknp (x : Reg) : IsEncodedBy (.sknp x) (0xE0A1 + 256 * x.val) :=
  isEncodedBy_one .sknp (p := 0xE0A1) rfl rfl fun _ => .of_eq (Instr.sknp.injEq ..)

theorem isEncodedBy_ldVxK (x : Reg) : IsEncodedBy (.ldVxK x) (0xF00A + 256 * x.val) :=
  isEncodedBy_one .ldVxK (p := 0xF00A) rfl rfl fun _ => .of_eq (Instr.ldVxK.injEq ..)

theorem isEncodedBy_addI (x : Reg) : IsEncodedBy (.addI x) (0xF01E + 256 * x.val) :=
  isEncodedBy_one .addI (p := 0xF01E) rfl rfl fun _ => .of_eq (Instr.addI.injEq ..)

theorem isEncodedBy_ldF (x : Reg) : IsEncodedBy (.ldF x) (0xF029 + 256 * x.val) :=
  isEncodedBy_one .ldF (p := 0xF029) rfl rfl fun _ => .of_eq (Instr.ldF.injEq ..)

theorem fieldN_eq_mod (op : Word) : fieldN op = op.toNat % 16 := by
  simp [fieldN]

/-- The count `n` fits its digit, so all four digits of a DRW are read back (R73). -/
theorem isEncodedBy_drw (x y : Reg) {n : Nat} (hn : n < 16) :
    IsEncodedBy (.drw x y n) (0xD000 + 256 * x.val + 16 * y.val + n) := fun op => by
  have hx : x.val < 16 := x.isLt
  have hy : y.val < 16 := y.isLt
  rw [decodeWord_eq_instr_iff (r := ⟨0xF000, 0xD000, fun op => .drw (fieldX op) (fieldY op) (fieldN op)⟩) rfl,
    Instr.drw.injEq, ← BitVec.toNat_inj, Fin.ext_iff, Fin.ext_iff, toNat_and_highNibble, val_fieldX, val_fieldY,
    fieldN_eq_mod]
  show op.toNat / 4096 * 4096 = 0xD000 ∧ _ ↔ _
  omega

/-! ### What the encoder computes (R83) -/

/-- A pattern within a mask and fields outside it share no bit, so that placing the fields adds their value. -/
theorem toNat_or_of_mask {p q m : Word} (hp : p &&& m = p) (hq : q &&& m = 0) :
    (p ||| q).toNat = p.toNat + q.toNat := by
  have hdisjoint : p &&& q = 0 := by
    rw [← hp, BitVec.and_assoc, BitVec.and_comm m, hq]
    exact BitVec.and_zero
  rw [← BitVec.add_eq_or_of_and_eq_zero _ _ hdisjoint, BitVec.toNat_add_of_and_eq_zero hdisjoint]

theorem toNat_placeX (x : Reg) : (placeX x).toNat = 256 * x.val := by revert x; decide

theorem toNat_placeX_or_placeY (x y : Reg) : (placeX x ||| placeY y).toNat = 256 * x.val + 16 * y.val := by
  revert x y; decide

theorem toNat_placeX_or_setWidth (x : Reg) (nn : Byte) :
    (placeX x ||| nn.setWidth 16).toNat = 256 * x.val + nn.toNat := by
  have hx : placeX x &&& 0xFF00 = placeX x := by revert x; decide
  have hnn : nn.setWidth 16 &&& (0xFF00 : Word) = 0 := by
    ext b hb
    interval_cases b <;> simp
  rw [toNat_or_of_mask hx hnn, toNat_placeX, BitVec.toNat_setWidth_of_le (by decide)]

theorem toNat_encode_target {p : Word} (hp : p &&& 0xF000 = p) (nnn : Target) :
    (p ||| nnn.setWidth 16).toNat = p.toNat + nnn.toNat := by
  rw [toNat_or_of_mask hp (target_clear nnn), BitVec.toNat_setWidth_of_le (by decide)]

theorem toNat_encode_immediate {p : Word} (hp : p &&& 0xF000 = p) (x : Reg) (nn : Byte) :
    (p ||| placeX x ||| nn.setWidth 16).toNat = p.toNat + 256 * x.val + nn.toNat := by
  have hfields : (placeX x ||| nn.setWidth 16) &&& (0xF000 : Word) = 0 := by
    rw [or_and_mask, immediate_clear, or_nothing]
    revert x; decide
  rw [BitVec.or_assoc, toNat_or_of_mask hp hfields, toNat_placeX_or_setWidth, Nat.add_assoc]

theorem toNat_encode_two {p : Word} (hp : p &&& 0xF00F = p) (x y : Reg) :
    (p ||| placeX x ||| placeY y).toNat = p.toNat + 256 * x.val + 16 * y.val := by
  have hfields : (placeX x ||| placeY y) &&& (0xF00F : Word) = 0 := by revert x y; decide
  rw [BitVec.or_assoc, toNat_or_of_mask hp hfields, toNat_placeX_or_placeY, Nat.add_assoc]

theorem toNat_encode_one {p : Word} (hp : p &&& 0xF0FF = p) (x : Reg) :
    (p ||| placeX x).toNat = p.toNat + 256 * x.val := by
  have hfield : placeX x &&& (0xF0FF : Word) = 0 := by revert x; decide
  rw [toNat_or_of_mask hp hfield, toNat_placeX]

theorem toNat_encode_drw (x y : Reg) {n : Nat} (hn : n < 16) :
    (encode (.drw x y n)).toNat = 0xD000 + 256 * x.val + 16 * y.val + n := by
  have hplaced : (0xD000 ||| placeX x ||| placeY y) &&& 0xFFF0 = 0xD000 ||| placeX x ||| placeY y := by
    revert x y; decide
  have hcount : BitVec.ofNat 16 n &&& 0xFFF0 = 0 := by revert n; decide
  rw [encode, toNat_or_of_mask hplaced hcount, toNat_encode_two (p := 0xD000) rfl, BitVec.toNat_ofNat,
    Nat.mod_eq_of_lt (by omega)]
  rfl

/-! ### The round trip -/

/-- `encode i`, read as a number, is the one word that decodes to `i`. -/
theorem isEncodedBy_encode {i : Instr} (hi : i.wellFormed = true) : IsEncodedBy i (encode i).toNat := by
  cases i with
  | nop => exact isEncodedBy_nop
  | cls => exact isEncodedBy_cls
  | ret => exact isEncodedBy_ret
  | jp nnn => exact toNat_encode_target (p := 0x1000) rfl nnn ▸ isEncodedBy_jp nnn
  | call nnn => exact toNat_encode_target (p := 0x2000) rfl nnn ▸ isEncodedBy_call nnn
  | seImm x nn => exact toNat_encode_immediate (p := 0x3000) rfl x nn ▸ isEncodedBy_seImm x nn
  | sneImm x nn => exact toNat_encode_immediate (p := 0x4000) rfl x nn ▸ isEncodedBy_sneImm x nn
  | seReg x y => exact toNat_encode_two (p := 0x5000) rfl x y ▸ isEncodedBy_seReg x y
  | ldImm x nn => exact toNat_encode_immediate (p := 0x6000) rfl x nn ▸ isEncodedBy_ldImm x nn
  | addImm x nn => exact toNat_encode_immediate (p := 0x7000) rfl x nn ▸ isEncodedBy_addImm x nn
  | ldReg x y => exact toNat_encode_two (p := 0x8000) rfl x y ▸ isEncodedBy_ldReg x y
  | orReg x y => exact toNat_encode_two (p := 0x8001) rfl x y ▸ isEncodedBy_orReg x y
  | andReg x y => exact toNat_encode_two (p := 0x8002) rfl x y ▸ isEncodedBy_andReg x y
  | xorReg x y => exact toNat_encode_two (p := 0x8003) rfl x y ▸ isEncodedBy_xorReg x y
  | addReg x y => exact toNat_encode_two (p := 0x8004) rfl x y ▸ isEncodedBy_addReg x y
  | sub x y => exact toNat_encode_two (p := 0x8005) rfl x y ▸ isEncodedBy_sub x y
  | shr x y => exact toNat_encode_two (p := 0x8006) rfl x y ▸ isEncodedBy_shr x y
  | subn x y => exact toNat_encode_two (p := 0x8007) rfl x y ▸ isEncodedBy_subn x y
  | shl x y => exact toNat_encode_two (p := 0x800E) rfl x y ▸ isEncodedBy_shl x y
  | sneReg x y => exact toNat_encode_two (p := 0x9000) rfl x y ▸ isEncodedBy_sneReg x y
  | ldI nnn => exact toNat_encode_target (p := 0xA000) rfl nnn ▸ isEncodedBy_ldI nnn
  | jpV0 nnn => exact toNat_encode_target (p := 0xB000) rfl nnn ▸ isEncodedBy_jpV0 nnn
  | rnd x nn => exact toNat_encode_immediate (p := 0xC000) rfl x nn ▸ isEncodedBy_rnd x nn
  | drw x y n =>
    have hn : n < 16 := of_decide_eq_true hi
    exact toNat_encode_drw x y hn ▸ isEncodedBy_drw x y hn
  | skp x => exact toNat_encode_one (p := 0xE09E) rfl x ▸ isEncodedBy_skp x
  | sknp x => exact toNat_encode_one (p := 0xE0A1) rfl x ▸ isEncodedBy_sknp x
  | ldVxDT x => exact toNat_encode_one (p := 0xF007) rfl x ▸ isEncodedBy_ldVxDT x
  | ldVxK x => exact toNat_encode_one (p := 0xF00A) rfl x ▸ isEncodedBy_ldVxK x
  | ldDT x => exact toNat_encode_one (p := 0xF015) rfl x ▸ isEncodedBy_ldDT x
  | ldST x => exact toNat_encode_one (p := 0xF018) rfl x ▸ isEncodedBy_ldST x
  | addI x => exact toNat_encode_one (p := 0xF01E) rfl x ▸ isEncodedBy_addI x
  | ldF x => exact toNat_encode_one (p := 0xF029) rfl x ▸ isEncodedBy_ldF x

/-- The one operand without a width of its own, the count of DRW, is read from a 4-bit field. -/
theorem wellFormed_of_decodeWord {op : Word} {i : Instr} (h : decodeWord op = .instr i) : i.wellFormed = true := by
  cases i with
  | drw x y n =>
    obtain ⟨-, hbuild⟩ := (decodeWord_eq_instr_iff
      (r := ⟨0xF000, 0xD000, fun op => .drw (fieldX op) (fieldY op) (fieldN op)⟩) rfl op).1 h
    obtain ⟨-, -, rfl⟩ := Instr.drw.inj hbuild
    exact decide_eq_true (op.extractLsb' 0 4).isLt
  | _ => rfl

/-- Settles O3: `encode i` is one of the words that decode to `i`. -/
theorem decodeOfEncode : Obligations.DecodeOfEncode :=
  fun i hi => (isEncodedBy_encode hi (encode i)).2 rfl

/-- Settles O4: a word that decodes to `i` can only be the one word of `i`. -/
theorem encodeOfDecode : Obligations.EncodeOfDecode := by
  intro op i h
  have hi : i.wellFormed = true := wellFormed_of_decodeWord h
  exact ⟨hi, (BitVec.toNat_inj.1 ((isEncodedBy_encode hi op).1 h)).symm⟩

end Sys2Proof.Machine

/-! ## The opcode table as the decoder (30_encoding.md R74, R78)

A word that no row selects is illegal. Which words these are is read off the first digit: for each value of it the rows
that remain test the low digit, the low byte, or nothing more. -/

namespace Sys2Proof.Machine

theorem decodeWord_eq_unimplemented_iff (op : Word) :
    decodeWord op = .unimplemented ↔ ∀ r ∈ opcodeTable, op &&& r.mask ≠ r.pattern := by
  rw [decodeWord]
  cases hfind : opcodeTable.find? (Row.selects op) with
  | none =>
    have hnone : ∀ r ∈ opcodeTable, op &&& r.mask ≠ r.pattern := fun r hr hsel =>
      List.find?_eq_none.1 hfind r hr (beq_iff_eq.2 hsel)
    exact iff_of_true rfl hnone
  | some r =>
    have hsel : Row.selects op r = true := List.find?_some hfind
    exact iff_of_false nofun fun h => h r (List.mem_of_find?_eq_some hfind) (beq_iff_eq.1 hsel)

/-- Settles O2: rows that select one word are one row, so the search finds the row that selects it. -/
theorem decodeFollowsTheOneSelectedRow : Obligations.DecodeFollowsTheOneSelectedRow := by
  refine ⟨fun op r hr hsel => ?_, fun op h => (decodeWord_eq_unimplemented_iff op).2 h,
    fun op j k r q hj hk hr hq => ?_⟩
  · obtain ⟨k, hk⟩ := List.mem_iff_getElem?.1 hr
    exact decodeWord_of_selects hk (beq_iff_eq.2 hsel)
  · exact Row.index_eq_of_selects hj hk (beq_iff_eq.2 hr) (beq_iff_eq.2 hq)

/-- Settles O1, by running the decoder on each word. -/
theorem sampleWordsDecode : Obligations.SampleWordsDecode := by
  unfold Obligations.SampleWordsDecode
  decide

/-! ### The illegal words -/

theorem selects_digit_iff (op p : Word) : op &&& 0xF000 = p ↔ op.toNat / 4096 * 4096 = p.toNat := by
  rw [← BitVec.toNat_inj, toNat_and_highNibble]

theorem selects_outerDigits_iff (op p : Word) :
    op &&& 0xF00F = p ↔ op.toNat / 4096 * 4096 + op.toNat % 16 = p.toNat := by
  rw [← BitVec.toNat_inj, toNat_and_outerNibbles]

theorem selects_digitAndByte_iff (op p : Word) :
    op &&& 0xF0FF = p ↔ op.toNat / 4096 * 4096 + op.toNat % 256 = p.toNat := by
  rw [← BitVec.toNat_inj, toNat_and_digitAndByte]

theorem selects_fullWord_iff (op p : Word) : op &&& 0xFFFF = p ↔ op.toNat = p.toNat := by
  have hmask : op &&& 0xFFFF = op := BitVec.and_allOnes
  rw [hmask, BitVec.toNat_inj]

/-- R78's sets (a) to (f). -/
theorem decodeWord_eq_unimplemented_iff_sets (op : Word) : decodeWord op = .unimplemented ↔
    (op.toNat / 4096 = 0 ∧ op.toNat ≠ 0 ∧ op.toNat ≠ 0xE0 ∧ op.toNat ≠ 0xEE) ∨
    (op.toNat / 4096 = 5 ∧ op.toNat % 16 ≠ 0) ∨
    (op.toNat / 4096 = 8 ∧ 8 ≤ op.toNat % 16 ∧ op.toNat % 16 ≠ 14) ∨
    (op.toNat / 4096 = 9 ∧ op.toNat % 16 ≠ 0) ∨
    (op.toNat / 4096 = 14 ∧ op.toNat % 256 ≠ 0x9E ∧ op.toNat % 256 ≠ 0xA1) ∨
    (op.toNat / 4096 = 15 ∧ op.toNat % 256 ≠ 0x07 ∧ op.toNat % 256 ≠ 0x0A ∧ op.toNat % 256 ≠ 0x15 ∧
      op.toNat % 256 ≠ 0x18 ∧ op.toNat % 256 ≠ 0x1E ∧ op.toNat % 256 ≠ 0x29) := by
  rw [decodeWord_eq_unimplemented_iff]
  simp only [opcodeTable, opcodeRowsA, opcodeRowsB, opcodeRowsC, List.cons_append, List.nil_append,
    List.forall_mem_cons, ne_eq, selects_digit_iff, selects_outerDigits_iff,
    selects_digitAndByte_iff, selects_fullWord_iff, BitVec.reduceToNat]
  have hop : op.toNat < 65536 := op.isLt
  have hdigit : op.toNat / 4096 < 16 := by omega
  have hlow : op.toNat % 16 < 16 := Nat.mod_lt _ (by decide)
  have hbyte : op.toNat % 256 < 256 := Nat.mod_lt _ (by decide)
  have hzero : op.toNat / 4096 ≠ 0 → 4096 ≤ op.toNat := by omega
  generalize op.toNat / 4096 = d at *
  generalize op.toNat % 16 = l at *
  generalize op.toNat % 256 = b at *
  -- Only rows with the first digit `d` can select the word: for each `d` what is left tests its low digit or byte.
  interval_cases d <;> simp <;> omega

/-- A TICK of a running machine that fetches an illegal word. -/
theorem perform_tick_of_unimplemented {s : State} {op : Word} (hs : s.Running) (hfetch : s.fetch = .ok op)
    (hop : decodeWord op = .unimplemented) : perform .tick s = .next (s.raise (.unimplementedOpcode op)) := by
  rw [perform_tick_of_running hs, fetchExecute, hfetch]
  simp only [hop, State.commit_error]

/-- Settles O5: the sets are what the 32 rows leave over, and the verdict of the decoder is what TICK raises. -/
theorem illegalWordsAreTheSixSets : Obligations.IllegalWordsAreTheSixSets :=
  ⟨decodeWord_eq_unimplemented_iff_sets, fun _ _ hs hfetch hop => perform_tick_of_unimplemented hs hfetch hop⟩

end Sys2Proof.Machine

/-! ## Fetch, TICK and the step (20_memory.md R53, 40_engine_and_control.md R90, 60_exceptions.md R176, R177) -/

namespace Sys2Proof.Machine

/-! ### The fetch -/

/-- The word of two bytes is big-endian (R54). -/
theorem toNat_assemble (hi lo : Byte) : (assemble hi lo).toNat = 256 * hi.toNat + lo.toNat := by
  rw [assemble, BitVec.toNat_append, ← Nat.shiftLeft_add_eq_or_of_lt lo.isLt, Nat.shiftLeft_eq, Nat.mul_comm]

theorem State.fetch_ok (s : State) (h : s.pc.toNat ≤ 4094) :
    s.fetch = .ok (assemble (s.byteAt s.pc.toNat) (s.byteAt (s.pc.toNat + 1))) := by
  obtain ⟨hpc, -⟩ | ⟨hpc, -⟩ | ⟨-, hfetch⟩ := s.fetch_cases
  · omega
  · omega
  · exact hfetch

/-- A fetch that succeeds has two bytes in range. -/
theorem State.pc_le_of_fetch_ok {s : State} {op : Word} (h : s.fetch = .ok op) : s.pc.toNat ≤ 4094 := by
  obtain ⟨-, hfetch⟩ | ⟨-, hfetch⟩ | ⟨hpc, -⟩ := s.fetch_cases
  · rw [hfetch] at h; cases h
  · rw [hfetch] at h; cases h
  · exact hpc

/-- Settles O6: the three cases of the statement are the three cases of the fetch. -/
theorem fetchIsBigEndianAndChecked : Obligations.FetchIsBigEndianAndChecked := by
  intro s
  refine ⟨fun h => ?_, fun h => ?_, fun h => ⟨_, s.fetch_ok h, toNat_assemble _ _⟩⟩
  · obtain ⟨-, hfetch⟩ | ⟨hpc, -⟩ | ⟨hpc, -⟩ := s.fetch_cases
    · exact hfetch
    · omega
    · omega
  · obtain ⟨hpc, -⟩ | ⟨-, hfetch⟩ | ⟨hpc, -⟩ := s.fetch_cases
    · omega
    · exact hfetch
    · omega

/-! ### TICK -/

theorem perform_tick_of_fetch_error {s : State} {f : Fault} (hs : s.Running) (hfetch : s.fetch = .error f) :
    perform .tick s = .next (s.raise f) := by
  rw [perform_tick_of_running hs, fetchExecute, hfetch]
  rfl

theorem perform_tick_of_instr {s : State} {op : Word} {i : Instr} (hs : s.Running) (hfetch : s.fetch = .ok op)
    (hop : decodeWord op = .instr i) : perform .tick s = exec i s := by
  rw [perform_tick_of_running hs, fetchExecute, hfetch]
  simp only [hop]

theorem State.stopped_of_fault {s : State} (h : s.fault ≠ none) : s.stopped = true :=
  Option.isSome_iff_ne_none.2 h

/-- R177: on a stopped machine only RESET has an effect. -/
theorem perform_of_stopped {s : State} (h : s.fault ≠ none) {c : Command} (hc : c ≠ .reset) :
    perform c s = .next s := by
  cases c with
  | reset => exact absurd rfl hc
  | _ => exact if_pos (State.stopped_of_fault h)

/-- Settles O8: stopped, a fetch that raises, an illegal word and an instruction are the branches of TICK. -/
theorem tickFetchesDecodesExecutes : Obligations.TickFetchesDecodesExecutes := fun _ =>
  ⟨fun h => perform_of_stopped h nofun, fun hs _ hfetch => perform_tick_of_fetch_error hs hfetch,
    fun hs _ hfetch => ⟨perform_tick_of_unimplemented hs hfetch, fun _ => perform_tick_of_instr hs hfetch⟩⟩

/-- Settles O11: the only command that looks past `FAULT` is RESET, and it clears it. -/
theorem stoppedMachineStaysStopped : Obligations.StoppedMachineStaysStopped := by
  intro s f hf
  have hstopped : s.fault ≠ none := hf ▸ nofun
  exact ⟨fun c hc => perform_of_stopped hstopped hc, _, rfl, rfl⟩

/-- Settles O10: the machine ran before, so the condition is one that TICK or LOAD raised, on the state it was given. -/
theorem fatalConditionsArePrecise : Obligations.FatalConditionsArePrecise := by
  intro c s t f hs h hf
  cases c with
  | tick =>
    rw [perform_tick_of_running hs] at h
    obtain hkept | ⟨g, -, rfl⟩ := fetchExecute_keepsFaultOrRaises h
    · exact absurd (hkept ▸ hf) (hs.fault_ne_some f)
    · cases hf; rfl
  | load bytes =>
    rw [perform_load_of_running bytes hs] at h
    split at h
    · cases h; cases hf; rfl
    · cases h
      rw [State.writeBytes_fault] at hf
      exact absurd hf (hs.fault_ne_some f)
  | _ =>
    have ht : t.Running := perform_running hs h nofun nofun
    exact absurd hf (ht.fault_ne_some f)

/-! ### The step -/

theorem step_of_idle {s : State} (h : s.Idle) : step s = perform .tick s := by
  have hcommand : s.nextCommand = .tick := by rw [State.nextCommand, h]
  have hdequeue : s.dequeue = s := by
    refine State.ext_fields rfl rfl rfl rfl rfl rfl rfl rfl rfl rfl rfl ?_
    show { s.env with pending := s.env.pending.tail } = s.env
    rw [h, List.tail_nil, ← h]
  rw [step, hcommand, hdequeue]

theorem step_of_pending {s : State} {c : Command} {rest : List Command} (h : s.env.pending = c :: rest) :
    step s = perform c { s with env := { s.env with pending := rest } } := by
  rw [step, State.nextCommand, State.dequeue, h, List.tail_cons]

/-- Every instruction answers a next state, a fatal condition being one (log 1). -/
theorem exists_exec_next (i : Instr) (s : State) : ∃ t, exec i s = .next t := by
  cases i with
  | ret | call | drw | skp | sknp => exact State.commit_next _ _
  | ldVxK x =>
    simp only [exec, execLdVxK]
    split
    · exact ⟨_, rfl⟩
    · exact ⟨_, rfl⟩
  | _ => exact ⟨_, rfl⟩

theorem exists_fetchExecute_next (s : State) : ∃ t, fetchExecute s = .next t := by
  unfold fetchExecute
  split
  · exact ⟨_, rfl⟩
  · split
    · exact ⟨_, rfl⟩
    · exact exists_exec_next _ s

/-- Every command answers a next state (log 1). -/
theorem exists_perform_next (c : Command) (s : State) : ∃ t, perform c s = .next t := by
  by_cases hs : s.Running
  · cases c with
    | reset => exact ⟨_, rfl⟩
    | load bytes =>
      rw [perform_load_of_running bytes hs]
      split
      · exact ⟨_, rfl⟩
      · exact ⟨_, rfl⟩
    | tick => rw [perform_tick_of_running hs]; exact exists_fetchExecute_next s
    | tickTimers => exact ⟨_, perform_tickTimers_of_running hs⟩
    | keypress k p => exact ⟨_, perform_keypress_of_running k p hs⟩
    | display => exact ⟨_, perform_display_of_running hs⟩
  · by_cases hc : c = .reset
    · subst hc; exact ⟨_, rfl⟩
    · exact ⟨s, perform_of_stopped hs hc⟩

/-- Settles O9: the step takes the head of the queue, and the command it performs always answers a next state. -/
theorem stepPerformsTheNextCommand : Obligations.StepPerformsTheNextCommand := fun s =>
  ⟨step_of_idle, fun _ _ h => step_of_pending h, exists_perform_next s.nextCommand s.dequeue⟩

/-- Settles O7: with nothing or a TICK at the head of the queue the step is a TICK, and neither the fetch nor `FAULT`
depends on the queue. -/
theorem stepRunsTheDecodedInstruction : Obligations.StepRunsTheDecodedInstruction := by
  intro s op i hs hfetch hop
  refine ⟨fun hidle => ?_, fun rest hpending => ?_⟩
  · rw [step_of_idle hidle, perform_tick_of_instr hs hfetch hop]
  · rw [step_of_pending hpending]
    exact perform_tick_of_instr (s := { s with env := { s.env with pending := rest } }) hs hfetch hop

end Sys2Proof.Machine

/-! ## What an instruction can do (40_engine_and_control.md R92, 60_exceptions.md R175)

An instruction either completes, writing the parts of the state that are its own, or raises its one condition.
`Completes` lists the writes by the part they touch, `RaiseCause` the conditions; every statement over all instructions
is then a statement about these few cases. -/

namespace Sys2Proof.Machine

/-! ### The five instructions that can raise, and LD Vx, K -/

theorem exec_ret_of_pos {s : State} (h : 0 < s.sp.val) :
    exec .ret s = .next { s with pc := s.stack[s.sp.val - 1], sp := ⟨s.sp.val - 1, by omega⟩ } := by
  rw [exec, execRet, State.pop_ok s.advance h]
  rfl

theorem exec_ret_of_empty {s : State} (h : s.sp.val = 0) : exec .ret s = .next (s.raise .stackUnderflow) := by
  rw [exec, execRet, State.pop_empty s.advance h]
  rfl

theorem exec_call_of_lt (nnn : Target) {s : State} (h : s.sp.val < 16) :
    exec (.call nnn) s = .next { s with pc := zextTarget nnn, stack := s.stack.set s.sp.val (s.pc + 2),
                                        sp := ⟨s.sp.val + 1, by omega⟩ } := by
  rw [exec, execCall, State.push_ok s.advance _ h]
  rfl

theorem exec_call_of_full (nnn : Target) {s : State} (h : s.sp.val = 16) :
    exec (.call nnn) s = .next (s.raise (.stackOverflow (s.pc + 2))) := by
  rw [exec, execCall, State.push_full s.advance _ h]
  rfl

theorem exec_skp_of_lt {x : Reg} {s : State} (h : (s.reg x).toNat < 16) :
    exec (.skp x) s = .next (s.advance.skipIf (s.pressed ⟨(s.reg x).toNat, h⟩)) := by
  rw [exec, execSkp, State.keyOf_ok s x h]
  rfl

theorem exec_skp_of_gt {x : Reg} {s : State} (h : 15 < (s.reg x).toNat) :
    exec (.skp x) s = .next (s.raise (.keyIndexOutOfRange (s.reg x))) := by
  rw [exec, execSkp, State.keyOf_error s x h]
  rfl

theorem exec_sknp_of_lt {x : Reg} {s : State} (h : (s.reg x).toNat < 16) :
    exec (.sknp x) s = .next (s.advance.skipIf (!s.pressed ⟨(s.reg x).toNat, h⟩)) := by
  rw [exec, execSknp, State.keyOf_ok s x h]
  rfl

theorem exec_sknp_of_gt {x : Reg} {s : State} (h : 15 < (s.reg x).toNat) :
    exec (.sknp x) s = .next (s.raise (.keyIndexOutOfRange (s.reg x))) := by
  rw [exec, execSknp, State.keyOf_error s x h]
  rfl

/-- The row bytes of a sprite: the `n` bytes from `I` on (R141). -/
def State.spriteRows (s : State) (n : Nat) : List Byte := (List.range' s.i.toNat n).map s.byteAt

/-- What a DRW draws: its rows at the coordinates its registers hold (R141). -/
def State.drawing (s : State) (x y : Reg) (n : Nat) : Framebuffer × Bool :=
  drawSprite s.fb (s.reg x).toNat (s.reg y).toNat (s.spriteRows n)

theorem exec_drw_of_inRange (x y : Reg) {n : Nat} {s : State} (h : n = 0 ∨ s.i.toNat + n ≤ 4096) :
    exec (.drw x y n) s = .next (s.advance.setDrawing (s.drawing x y n)) := by
  rw [exec, execDrw, State.readBytes_ok s _ n h]
  rfl

theorem exec_drw_of_row (x y : Reg) {n r : Nat} {s : State} (hr : r < n) (hout : 4096 ≤ s.i.toNat + r)
    (hfirst : ∀ q, q < r → s.i.toNat + q < 4096) :
    exec (.drw x y n) s = .next (s.raise (.memoryOutOfRange (s.i.toNat + r))) := by
  rw [exec, execDrw, State.readBytes_error s _ n r hr hout hfirst]
  rfl

/-- A sprite that reaches past the end of memory has a first row that does. -/
theorem exists_first_row {a n : Nat} (h : ¬(n = 0 ∨ a + n ≤ 4096)) :
    ∃ r, r < n ∧ 4096 ≤ a + r ∧ ∀ q, q < r → a + q < 4096 :=
  ⟨4096 - a, by omega, by omega, fun q hq => by omega⟩

theorem exec_ldVxK_of_some (x : Reg) {s : State} {k : Key} (h : s.lowestKey = some k) :
    exec (.ldVxK x) s = .next (s.advance.setReg x (keyByte k)) := by
  rw [exec, execLdVxK, h]

theorem exec_ldVxK_of_none (x : Reg) {s : State} (h : s.lowestKey = none) :
    exec (.ldVxK x) s = .next (s.advance.skipIf true) := by
  rw [exec, execLdVxK, h]

/-! ### The cases of an instruction's end -/

/-- The one condition that each instruction can raise, and when (R175). -/
def RaiseCause (i : Instr) (s : State) (f : Fault) : Prop :=
  (∃ nnn, i = .call nnn ∧ s.sp.val = 16 ∧ f = .stackOverflow (s.pc + 2)) ∨
  (i = .ret ∧ s.sp.val = 0 ∧ f = .stackUnderflow) ∨
  (∃ x, (i = .skp x ∨ i = .sknp x) ∧ 15 < (s.reg x).toNat ∧ f = .keyIndexOutOfRange (s.reg x)) ∨
  (∃ x y n r, i = .drw x y n ∧ r < n ∧ 4096 ≤ s.i.toNat + r ∧ f = .memoryOutOfRange (s.i.toNat + r))

/-- The states in which an instruction that raises nothing can leave the machine, one constructor per part of the state
that is written beside `PC`, with what R92 says of an instruction that writes it. -/
inductive Completes (s : State) (i : Instr) : State → Prop
  | pcOnly (w : Word) : Completes s i (s.setPc w)
  | reg (x : Reg) (b : Byte) (hx : ordinaryDestination i = some x) : Completes s i (s.advance.setReg x b)
  | random (x : Reg) (b : Byte) (hx : ordinaryDestination i = some x) (hr : readsRandom i = true) :
      Completes s i (s.advance.drawn.setReg x b)
  | result (x : Reg) (b : Byte) (c : Bool) (hx : resultDestination i = some x) (hf : writesFlag i = true) :
      Completes s i (s.advance.setResult x b c)
  | index (w : Word) (hi : writesI i = true) : Completes s i (s.advance.setI w)
  | delay (b : Byte) (hd : writesDt i = true) : Completes s i (s.advance.setDt b)
  | sound (b : Byte) (hs : writesSt i = true) : Completes s i (s.advance.setSt b)
  | screen (fb : Framebuffer) (hfb : writesFb i = true) : Completes s i (s.advance.setFb fb)
  | drawing (d : Framebuffer × Bool) (hfb : writesFb i = true) (hf : writesFlag i = true) :
      Completes s i (s.advance.setDrawing d)
  | push (w : Word) (hsp : s.sp.val < 16) (hu : usesStack i = true) :
      Completes s i { s with pc := w, stack := s.stack.set s.sp.val (s.pc + 2), sp := ⟨s.sp.val + 1, by omega⟩ }
  | pop (w : Word) (hsp : 0 < s.sp.val) (hu : usesStack i = true) :
      Completes s i { s with pc := w, sp := ⟨s.sp.val - 1, by omega⟩ }

/-- The two key skips end alike: they test the key operand and set `PC`. -/
theorem completes_or_raises_of_keyOf {i : Instr} {x : Reg} {s t : State} {c : Key → Bool}
    (hi : i = .skp x ∨ i = .sknp x) (h : s.commit ((s.keyOf x).map fun k => s.advance.skipIf (c k)) = .next t) :
    Completes s i t ∨ ∃ f, RaiseCause i s f ∧ t = s.raise f := by
  obtain ⟨k, -, rfl⟩ | ⟨f, hkey, rfl⟩ := State.commit_map_cases h
  · exact .inl (.pcOnly _)
  · obtain ⟨hx, rfl⟩ := State.keyOf_error_inv hkey
    exact .inr ⟨_, .inr (.inr (.inl ⟨x, hi, hx, rfl⟩)), rfl⟩

/-- All that an instruction can do. -/
theorem completes_or_raises {i : Instr} {s t : State} (h : exec i s = .next t) :
    Completes s i t ∨ ∃ f, RaiseCause i s f ∧ t = s.raise f := by
  cases i with
  | nop | jp nnn | jpV0 nnn | seImm x nn | sneImm x nn | seReg x y | sneReg x y =>
    cases h; exact .inl (.pcOnly _)
  | ldImm x nn | addImm x nn | ldReg x y | orReg x y | andReg x y | xorReg x y | ldVxDT x =>
    cases h; exact .inl (.reg x _ rfl)
  | rnd x nn => cases h; exact .inl (.random x _ rfl rfl)
  | addReg x y | sub x y | shr x y | subn x y | shl x y => cases h; exact .inl (.result x _ _ rfl rfl)
  | ldI nnn | addI x | ldF x => cases h; exact .inl (.index _ rfl)
  | ldDT x => cases h; exact .inl (.delay _ rfl)
  | ldST x => cases h; exact .inl (.sound _ rfl)
  | cls => cases h; exact .inl (.screen _ rfl)
  | ldVxK x =>
    cases hkey : s.lowestKey with
    | some k => rw [exec_ldVxK_of_some x hkey] at h; cases h; exact .inl (.reg x _ rfl)
    | none => rw [exec_ldVxK_of_none x hkey] at h; cases h; exact .inl (.pcOnly _)
  | ret =>
    obtain ⟨⟨w, u⟩, hpop, rfl⟩ | ⟨f, hpop, rfl⟩ := State.commit_map_cases h
    · obtain ⟨hsp, -, rfl⟩ := State.pop_ok_inv hpop
      exact .inl (.pop (s := s) _ hsp rfl)
    · obtain ⟨hempty, rfl⟩ := State.pop_error_inv hpop
      exact .inr ⟨_, .inr (.inl ⟨rfl, hempty, rfl⟩), rfl⟩
  | call nnn =>
    obtain ⟨u, hpush, rfl⟩ | ⟨f, hpush, rfl⟩ := State.commit_map_cases h
    · obtain ⟨hsp, rfl⟩ := State.push_ok_inv hpush
      exact .inl (.push (s := s) _ hsp rfl)
    · obtain ⟨hfull, rfl⟩ := State.push_error_inv hpush
      exact .inr ⟨_, .inl ⟨nnn, rfl, hfull, rfl⟩, rfl⟩
  | skp x => exact completes_or_raises_of_keyOf (.inl rfl) h
  | sknp x => exact completes_or_raises_of_keyOf (.inr rfl) h
  | drw x y n =>
    obtain ⟨rows, -, rfl⟩ | ⟨f, hread, rfl⟩ := State.commit_map_cases h
    · exact .inl (.drawing _ rfl rfl)
    · obtain ⟨r, hr, hout, rfl⟩ := State.readBytes_error_inv hread
      exact .inr ⟨_, .inr (.inr (.inr ⟨x, y, n, r, rfl, hr, hout, rfl⟩)), rfl⟩

/-! ### What a completed instruction keeps -/

section Completes

variable {s t : State} {i : Instr}

theorem Completes.fault_eq (h : Completes s i t) : t.fault = s.fault := by
  cases h with
  | _ => rfl

theorem Completes.mem_eq (h : Completes s i t) : t.mem = s.mem := by
  cases h with
  | _ => rfl

theorem Completes.key_eq (h : Completes s i t) : t.key = s.key := by
  cases h with
  | _ => rfl

theorem Completes.fb_eq (h : Completes s i t) (hw : writesFb i = false) : t.fb = s.fb := by
  cases h with
  | screen _ hfb | drawing _ hfb => simp [hw] at hfb
  | _ => rfl

theorem Completes.stack_eq (h : Completes s i t) (hw : usesStack i = false) : t.sp = s.sp ∧ t.stack = s.stack := by
  cases h with
  | push _ _ hu | pop _ _ hu => simp [hw] at hu
  | _ => exact ⟨rfl, rfl⟩

theorem Completes.i_eq (h : Completes s i t) (hw : writesI i = false) : t.i = s.i := by
  cases h with
  | index _ hi => simp [hw] at hi
  | _ => rfl

theorem Completes.dt_eq (h : Completes s i t) (hw : writesDt i = false) : t.dt = s.dt := by
  cases h with
  | delay _ hd => simp [hw] at hd
  | _ => rfl

theorem Completes.st_eq (h : Completes s i t) (hw : writesSt i = false) : t.st = s.st := by
  cases h with
  | sound _ hs => simp [hw] at hs
  | _ => rfl

theorem Completes.env_eq (h : Completes s i t) (hw : readsRandom i = false) : t.env = s.env := by
  cases h with
  | random _ _ _ hr => simp [hw] at hr
  | _ => rfl

theorem Completes.reg_of_not_destination (h : Completes s i t) {r : Reg} (ho : ordinaryDestination i ≠ some r)
    (hd : resultDestination i ≠ some r) (hv : writesFlag i = true → r ≠ 15) : t.reg r = s.reg r := by
  cases h with
  | reg x b hx | random x b hx =>
    have hrx : r ≠ x := fun e => ho (e ▸ hx)
    exact (State.setReg_reg _ x b r).trans (if_neg hrx)
  | result x b c hx hf =>
    have hrx : r ≠ x := fun e => hd (e ▸ hx)
    rw [State.setResult_reg, if_neg (hv hf), if_neg hrx, State.advance_reg]
  | drawing d _ hf => rw [State.setDrawing_reg, if_neg (hv hf), State.advance_reg]
  | _ => rfl

end Completes

/-- Settles O17: each part of the state is written by the completions of its own instructions, and a raise writes
`FAULT` alone. -/
theorem onlyTheNamedInstructionsWriteEachPart : Obligations.OnlyTheNamedInstructionsWriteEachPart := by
  intro i s t h
  obtain hc | ⟨f, -, rfl⟩ := completes_or_raises h
  · exact ⟨hc.fb_eq, hc.stack_eq, hc.i_eq, hc.dt_eq, hc.st_eq, hc.env_eq, hc.key_eq, hc.mem_eq,
      fun _ => hc.reg_of_not_destination⟩
  · exact ⟨fun _ => rfl, fun _ => ⟨rfl, rfl⟩, fun _ => rfl, fun _ => rfl, fun _ => rfl, fun _ => rfl, rfl, rfl,
      fun _ _ _ _ => rfl⟩

/-- Settles O13: a completed instruction keeps `FAULT`, so a condition comes from its cause. -/
theorem instructionsRaiseOnlyTheirCondition : Obligations.InstructionsRaiseOnlyTheirCondition := by
  intro i s t f hs h hf
  obtain hc | ⟨g, hcause, rfl⟩ := completes_or_raises h
  · exact absurd (hc.fault_eq ▸ hf) (hs.fault_ne_some f)
  · cases hf
    exact hcause

/-- When the machine still runs the instruction has completed. -/
theorem completes_of_running {i : Instr} {s t : State} (h : exec i s = .next t) (ht : t.Running) :
    Completes s i t := by
  obtain hc | ⟨f, -, rfl⟩ := completes_or_raises h
  · exact hc
  · exact absurd rfl (ht.fault_ne_some f)

/-! ### The flag -/

theorem flagByte_eq_zero_or_one (c : Bool) : flagByte c = 0 ∨ flagByte c = 1 := by
  cases c with
  | false => exact .inl rfl
  | true => exact .inr rfl

/-- An instruction without a flag has no second destination. -/
theorem resultDestination_of_not_writesFlag {i : Instr} (h : writesFlag i = false) : resultDestination i = none := by
  cases i with
  | addReg | sub | shr | subn | shl => cases h
  | _ => rfl

/-- The six flag-writing instructions write the flag last (R110). -/
theorem exists_reg_vf_eq_flagByte {i : Instr} {s t : State} (hi : writesFlag i = true) (h : exec i s = .next t)
    (ht : t.Running) : ∃ c, t.reg 15 = flagByte c := by
  cases i with
  | addReg | sub | shr | subn | shl => cases h; exact ⟨_, State.setResult_reg _ _ _ _ 15⟩
  | drw x y n =>
    obtain ⟨rows, -, rfl⟩ | ⟨f, -, rfl⟩ := State.commit_map_cases h
    · exact ⟨_, State.setDrawing_reg _ _ 15⟩
    · exact absurd rfl (ht.fault_ne_some f)
  | _ => cases hi

/-- Settles O19: a flag byte is 0 or 1, and without a flag `VF` is a register like any other. -/
theorem vfIsWrittenAsFlagOrDestinationOnly : Obligations.VfIsWrittenAsFlagOrDestinationOnly := by
  intro i s t _ h ht
  refine ⟨fun hi => ?_, fun hi ho => ?_⟩
  · obtain ⟨c, hc⟩ := exists_reg_vf_eq_flagByte hi h ht
    exact hc ▸ flagByte_eq_zero_or_one c
  · refine (completes_of_running h ht).reg_of_not_destination ho ?_ fun hf => ?_
    · rw [resultDestination_of_not_writesFlag hi]; exact nofun
    · rw [hi] at hf; cases hf

end Sys2Proof.Machine

/-! ## Where an instruction leaves `PC` (10_state.md R23) -/

namespace Sys2Proof.Machine

theorem State.pressed_iff_getElem? (s : State) (k : Key) : s.pressed k = true ↔ s.key.toList[k.val]? = some true := by
  rw [State.pressed, List.getElem?_eq_getElem (by rw [Vector.length_toList]; exact k.isLt), Vector.getElem_toList,
    Option.some.injEq]

/-- A skip on the negation of a test, in the terms of the test. -/
theorem State.pc_advance_skipIf_not (s : State) {c : Bool} {P : Prop} [Decidable P] (hc : c = true ↔ P) :
    (s.advance.skipIf (!c)).pc = if P then s.pc + 2 else s.pc + 4 := by
  have hnot : (!c) = true ↔ ¬P := by rw [← hc, Bool.not_eq_true', Bool.not_eq_true]
  exact (s.pc_advance_skipIf hnot).trans (ite_not ..)

theorem State.any_key_iff (s : State) : s.key.toList.any id = true ↔ ∃ k, s.pressed k = true := by
  simp only [List.any_eq_true, id_eq, exists_eq_right, List.mem_iff_getElem, Vector.length_toList,
    Vector.getElem_toList]
  exact ⟨fun ⟨k, hk, h⟩ => ⟨⟨k, hk⟩, h⟩, fun ⟨k, h⟩ => ⟨k.val, k.isLt, h⟩⟩

theorem zextTarget_eq_ofNat (nnn : Target) : zextTarget nnn = BitVec.ofNat 16 nnn.toNat :=
  (BitVec.ofNat_toNat ..).symm

/-- The sum of `V0` and a target is below 65536, so taking it in 16 bits does not reduce it (R98). -/
theorem State.toNat_offsetTarget (s : State) (nnn : Target) :
    (s.offsetTarget nnn).toNat = (s.reg 0).toNat + nnn.toNat := by
  have hreg : (s.reg 0).toNat < 256 := (s.reg 0).isLt
  have htarget : nnn.toNat < 4096 := nnn.isLt
  rw [State.offsetTarget, BitVec.toNat_add, toNat_zextTarget, zextByte, BitVec.toNat_setWidth_of_le (by decide),
    Nat.mod_eq_of_lt (by omega)]

theorem State.offsetTarget_eq_ofNat (s : State) (nnn : Target) :
    s.offsetTarget nnn = BitVec.ofNat 16 ((s.reg 0).toNat + nnn.toNat) := by
  rw [← s.toNat_offsetTarget nnn, BitVec.ofNat_toNat, BitVec.setWidth_eq]

/-- R23's table, for every instruction that has completed. -/
theorem exec_pc {i : Instr} {s t : State} (h : exec i s = .next t) (ht : t.Running) : t.pc = pcAfter s i := by
  cases i with
  | ret =>
    by_cases hsp : 0 < s.sp.val
    · rw [exec_ret_of_pos hsp] at h; cases h
      rw [pcAfter, dif_pos hsp]
    · rw [exec_ret_of_empty (Nat.eq_zero_of_not_pos hsp)] at h; cases h; cases ht
  | call nnn =>
    by_cases hsp : s.sp.val < 16
    · rw [exec_call_of_lt nnn hsp] at h; cases h
      exact zextTarget_eq_ofNat nnn
    · rw [exec_call_of_full nnn (by omega)] at h; cases h; cases ht
  | skp x =>
    by_cases hx : (s.reg x).toNat < 16
    · rw [exec_skp_of_lt hx] at h; cases h
      exact s.pc_advance_skipIf (s.pressed_iff_getElem? _)
    · rw [exec_skp_of_gt (by omega)] at h; cases h; cases ht
  | sknp x =>
    by_cases hx : (s.reg x).toNat < 16
    · rw [exec_sknp_of_lt hx] at h; cases h
      exact s.pc_advance_skipIf_not (s.pressed_iff_getElem? _)
    · rw [exec_sknp_of_gt (by omega)] at h; cases h; cases ht
  | ldVxK x =>
    cases hkey : s.lowestKey with
    | some k =>
      rw [exec_ldVxK_of_some x hkey] at h; cases h
      have hany : s.key.toList.any id = true := s.any_key_iff.2 ⟨k, ((s.lowestKey_some k).1 hkey).1⟩
      exact (if_pos hany).symm
    | none =>
      rw [exec_ldVxK_of_none x hkey] at h; cases h
      have hany : ¬ s.key.toList.any id = true := fun h => by
        obtain ⟨k, hk⟩ := s.any_key_iff.1 h
        exact Bool.false_ne_true (((s.lowestKey_none).1 hkey k).symm.trans hk)
      exact (pc_advance_skip s.pc).trans (if_neg hany).symm
  | seImm x nn => cases h; exact s.pc_advance_skipIf beq_iff_eq
  | seReg x y => cases h; exact s.pc_advance_skipIf beq_iff_eq
  | sneImm x nn => cases h; exact (s.pc_advance_skipIf bne_iff_ne).trans (ite_not ..)
  | sneReg x y => cases h; exact (s.pc_advance_skipIf bne_iff_ne).trans (ite_not ..)
  | jp nnn => cases h; exact zextTarget_eq_ofNat nnn
  | jpV0 nnn => cases h; exact s.offsetTarget_eq_ofNat nnn
  | drw x y n =>
    obtain ⟨rows, -, rfl⟩ | ⟨f, -, rfl⟩ := State.commit_map_cases h
    · rfl
    · cases ht
  | _ => cases h; rfl

/-- Settles O18: `exec_pc` needs of the state before the instruction nothing at all. -/
theorem pcAfterEachInstruction : Obligations.PcAfterEachInstruction :=
  fun _ _ _ _ h ht => exec_pc h ht

end Sys2Proof.Machine

/-! ## What an instruction does not read (40_engine_and_control.md R92, 10_state.md R31) -/

namespace Sys2Proof.Machine

/-- The state with another value of the sound timer and another count of random draws. -/
def State.withUnread (s : State) (b : Byte) (d : Nat) : State := { s with st := b, env := { s.env with draws := d } }

/-- The two key skips read the register, the keypad and `PC`. -/
theorem commit_keyOf_withUnread {s t : State} {x : Reg} {c : Key → Bool}
    (h : s.commit ((s.keyOf x).map fun k => s.advance.skipIf (c k)) = .next t) (b : Byte) (d : Nat) :
    (s.withUnread b d).commit (((s.withUnread b d).keyOf x).map fun k => (s.withUnread b d).advance.skipIf (c k)) =
      .next (t.withUnread b d) := by
  have hkeyOf : (s.withUnread b d).keyOf x = s.keyOf x := rfl
  obtain ⟨k, hkey, rfl⟩ | ⟨f, hkey, rfl⟩ := State.commit_map_cases h
  · rw [hkeyOf, hkey]; rfl
  · rw [hkeyOf, hkey]; rfl

/-- An instruction that neither writes `ST` nor draws a random byte does the same whatever these two are: each condition
it tests and each value it writes is that of the other state. -/
theorem exec_withUnread {i : Instr} {s t : State} (hst : writesSt i = false) (hr : readsRandom i = false)
    (h : exec i s = .next t) (b : Byte) (d : Nat) : exec i (s.withUnread b d) = .next (t.withUnread b d) := by
  cases i with
  | ret =>
    by_cases hsp : 0 < s.sp.val
    · rw [exec_ret_of_pos hsp] at h; cases h
      exact exec_ret_of_pos (s := s.withUnread b d) hsp
    · have hempty : s.sp.val = 0 := Nat.eq_zero_of_not_pos hsp
      rw [exec_ret_of_empty hempty] at h; cases h
      exact exec_ret_of_empty (s := s.withUnread b d) hempty
  | call nnn =>
    by_cases hsp : s.sp.val < 16
    · rw [exec_call_of_lt nnn hsp] at h; cases h
      exact exec_call_of_lt nnn (s := s.withUnread b d) hsp
    · have hfull : s.sp.val = 16 := by omega
      rw [exec_call_of_full nnn hfull] at h; cases h
      exact exec_call_of_full nnn (s := s.withUnread b d) hfull
  | skp x | sknp x => exact commit_keyOf_withUnread h b d
  | drw x y n =>
    by_cases hin : n = 0 ∨ s.i.toNat + n ≤ 4096
    · rw [exec_drw_of_inRange x y hin] at h; cases h
      exact exec_drw_of_inRange x y (s := s.withUnread b d) hin
    · obtain ⟨r, hrow, hout, hfirst⟩ := exists_first_row hin
      rw [exec_drw_of_row x y hrow hout hfirst] at h; cases h
      exact exec_drw_of_row x y (s := s.withUnread b d) hrow hout hfirst
  | ldVxK x =>
    cases hkey : s.lowestKey with
    | some k =>
      rw [exec_ldVxK_of_some x hkey] at h; cases h
      exact exec_ldVxK_of_some x (s := s.withUnread b d) hkey
    | none =>
      rw [exec_ldVxK_of_none x hkey] at h; cases h
      exact exec_ldVxK_of_none x (s := s.withUnread b d) hkey
  | ldST x => cases hst
  | rnd x nn => cases hr
  | _ => cases h; rfl

theorem exec_st_eq {i : Instr} {s t : State} (hst : writesSt i = false) (h : exec i s = .next t) : t.st = s.st := by
  obtain ⟨-, -, -, -, hframe, -⟩ := onlyTheNamedInstructionsWriteEachPart i s t h
  exact hframe hst

/-- Settles O20: of the instructions that draw nothing, FX18 writes `ST` and is one write; the others do not read the
count. -/
theorem randomByteReachesOnlyRnd : Obligations.RandomByteReachesOnlyRnd := by
  intro i s t d hr h
  by_cases hst : writesSt i = false
  · have hunread := exec_withUnread hst hr h s.st d
    have ht : t.withUnread s.st d = { t with env := { t.env with draws := d } } := by
      rw [← exec_st_eq hst h]; rfl
    rwa [ht] at hunread
  · cases i with
    | ldST x => cases h; rfl
    | _ => exact absurd rfl hst

/-- Settles O21: CXNN writes `V[x]` alone; the others do not read `ST`. -/
theorem soundTimerIsReadByNoInstruction : Obligations.SoundTimerIsReadByNoInstruction := by
  intro i s t b hst h
  by_cases hr : readsRandom i = false
  · have hunread := exec_withUnread hst hr h b s.env.draws
    obtain ⟨-, -, -, -, -, henv, -⟩ := onlyTheNamedInstructionsWriteEachPart i s t h
    have ht : t.withUnread b s.env.draws = { t with st := b } := by
      rw [← henv hr]; rfl
    rwa [ht] at hunread
  · cases i with
    | rnd x nn => cases h; rfl
    | _ => exact absurd rfl hr

end Sys2Proof.Machine

/-! ## The invariants (10_state.md R38) and the state after RESET (R36, 70_reset_and_hazards.md R190) -/

namespace Sys2Proof.Machine

/-! ### The reset contents of memory -/

theorem Memory.unlisted_font (font : Vector Byte 80) {a : Nat} (h : a < 80) : Memory.unlisted font a = font[a] :=
  dif_pos h

theorem Memory.unlisted_zero (font : Vector Byte 80) {a : Nat} (h : 80 ≤ a) : Memory.unlisted font a = 0 :=
  dif_neg (by omega)

/-- The state after RESET under the environment `e`. -/
def resetWith (e : Env) : State := { State.reset with env := e }

theorem perform_reset (s : State) : perform .reset s = .next (resetWith s.env) := rfl

theorem resetWith_byteAt_font (e : Env) {a : Nat} (h : a < 80) : (resetWith e).byteAt a = e.font[a] :=
  Memory.unlisted_font e.font h

theorem resetWith_byteAt_zero (e : Env) {a : Nat} (h : 80 ≤ a) : (resetWith e).byteAt a = 0 :=
  Memory.unlisted_zero e.font h

theorem resetWith_reg (e : Env) (r : Reg) : (resetWith e).reg r = 0 := Vector.getElem_replicate r.isLt

theorem resetWith_stack (e : Env) {j : Nat} (h : j < 16) : (resetWith e).stack[j] = 0 := Vector.getElem_replicate h

theorem resetWith_key (e : Env) {k : Nat} (h : k < 16) : (resetWith e).key[k] = false := Vector.getElem_replicate h

theorem resetWith_fb (e : Env) (c : Cell) : (resetWith e).fb[c.val] = false := Vector.getElem_replicate c.isLt

/-- Settles O54: RESET leads to the reset state under the environment it finds. -/
theorem resetGivesEveryPieceItsValue : Obligations.ResetGivesEveryPieceItsValue := fun s =>
  ⟨_, perform_reset s, fun _ => resetWith_byteAt_font s.env, fun _ => resetWith_byteAt_zero s.env, resetWith_reg s.env,
    fun _ => resetWith_stack s.env, fun _ => resetWith_key s.env, resetWith_fb s.env,
    rfl, rfl, rfl, rfl, rfl, rfl, rfl, rfl⟩

/-- Settles O55: the state after reset is the reset state under the environment a run starts with. -/
theorem resetState : Obligations.ResetState :=
  ⟨resetWith_reg Env.initial, rfl, rfl, rfl, fun _ => resetWith_stack Env.initial,
    fun _ => resetWith_byteAt_font Env.initial, fun _ => resetWith_byteAt_zero Env.initial, rfl, rfl,
    fun _ => resetWith_key Env.initial, resetWith_fb Env.initial, rfl⟩

/-- The reset state has the invariants under every environment: no stack entry is live and no condition is latched. -/
theorem resetWith_inv (e : Env) : (resetWith e).Inv where
  memWf := rfl
  font _ h := resetWith_byteAt_font e h
  reserved _ h _ := resetWith_byteAt_zero e h
  stack _ _ h := absurd h (Nat.not_lt_zero _)
  pc := show (0x200 : Word).toNat ≤ 4350 by decide
  fault := nofun

/-- Settles O15. -/
theorem resetHasInvariants : Obligations.ResetHasInvariants := resetWith_inv Env.initial

/-! ### The invariants under an instruction -/

theorem State.Inv.raise {s : State} (hs : s.Inv) {f : Fault} (hf : f.Legal) : (s.raise f).Inv where
  memWf := hs.memWf
  font := hs.font
  reserved := hs.reserved
  stack := hs.stack
  pc := hs.pc
  fault := fun _ hg => Option.some.inj hg ▸ hf

/-- The address of the next instruction, and of the one a skip leads to, behind an instruction that was fetched. -/
theorem toNat_pc_add {p : Word} (hp : p.toNat ≤ 4094) : (p + 2).toNat = p.toNat + 2 ∧ (p + 4).toNat = p.toNat + 4 := by
  have htwo : (2 : Word).toNat = 2 := rfl
  have hfour : (4 : Word).toNat = 4 := rfl
  constructor
  · rw [BitVec.toNat_add, htwo]; omega
  · rw [BitVec.toNat_add, hfour]; omega

/-- The condition an instruction raises records what R170 says: the return address of a CALL is at most 4096 because the
CALL was fetched. -/
theorem RaiseCause.legal {i : Instr} {s : State} {f : Fault} (h : RaiseCause i s f) (hpc : s.pc.toNat ≤ 4094) :
    f.Legal := by
  obtain ⟨nnn, -, -, rfl⟩ | ⟨-, -, rfl⟩ | ⟨x, -, hx, rfl⟩ | ⟨x, y, n, r, -, -, hr, rfl⟩ := h
  · show (s.pc + 2).toNat ≤ 4096
    rw [(toNat_pc_add hpc).1]
    omega
  · trivial
  · exact hx
  · exact hr

/-- `PC` stays at most 4350 (R24): the greatest value is that of JP V0, 255 + 4095. -/
theorem toNat_pcAfter_le {s : State} (hs : s.Inv) (hpc : s.pc.toNat ≤ 4094) (i : Instr) :
    (pcAfter s i).toNat ≤ 4350 := by
  obtain ⟨hnext, hskip⟩ := toNat_pc_add hpc
  have hskips (P : Prop) [Decidable P] :
      (if P then s.pc + 4 else s.pc + 2).toNat ≤ 4350 ∧ (if P then s.pc + 2 else s.pc + 4).toNat ≤ 4350 := by
    split <;> omega
  cases i with
  | ret =>
    rw [pcAfter]
    split
    · next hsp => exact (hs.stack _ (by omega) (by omega)).trans (by decide)
    · exact hs.pc
  | jp nnn | call nnn =>
    rw [pcAfter, ← zextTarget_eq_ofNat, toNat_zextTarget]
    omega
  | jpV0 nnn =>
    rw [pcAfter, ← s.offsetTarget_eq_ofNat, s.toNat_offsetTarget]
    omega
  | seImm | seReg | skp => exact (hskips _).1
  | sneImm | sneReg | sknp | ldVxK => exact (hskips _).2
  | _ => exact hnext.trans_le (by omega)

/-- Every live stack entry stays at most 4096 (R28): a CALL pushes the address behind itself, a RET leaves fewer entries
live. -/
theorem Completes.stack_le {s t : State} {i : Instr} (h : Completes s i t) (hs : s.Inv) (hpc : s.pc.toNat ≤ 4094)
    {k : Nat} (hk : k < 16) (hlive : k < t.sp.val) : t.stack[k].toNat ≤ 4096 := by
  cases h with
  | push w hsp =>
    show (s.stack.set s.sp.val (s.pc + 2))[k].toNat ≤ 4096
    rw [Vector.getElem_set]
    split
    · rw [(toNat_pc_add hpc).1]; omega
    · next hne =>
      have hlt : k < s.sp.val + 1 := hlive
      exact hs.stack k hk (by omega)
  | pop w hsp =>
    have hlt : k < s.sp.val - 1 := hlive
    exact hs.stack k hk (by omega)
  | _ => exact hs.stack k hk hlive

/-- A fetched instruction of a running machine keeps the invariants. -/
theorem State.Inv.exec {i : Instr} {s t : State} (hs : s.Inv) (hrun : s.Running) (hpc : s.pc.toNat ≤ 4094)
    (h : exec i s = .next t) : t.Inv := by
  obtain hc | ⟨f, hcause, rfl⟩ := completes_or_raises h
  · have hm : KeepsMemory s t := exec_keepsMemory h
    have ht : t.Running := hc.fault_eq.trans hrun
    constructor
    case memWf => rw [hm.mem, hm.font]; exact hs.memWf
    case font => intro a ha; rw [hm.bytesKept, hs.font a ha]; simp only [hm.font]
    case reserved => intro a hlo hhi; rw [hm.bytesKept, hs.reserved a hlo hhi]
    case stack => exact fun k hk hlive => hc.stack_le hs hpc hk hlive
    case pc => rw [exec_pc h ht]; exact toNat_pcAfter_le hs hpc i
    case fault => exact fun f hf => absurd hf (ht.fault_ne_some f)
  · exact hs.raise (hcause.legal hpc)

/-! ### The invariants under a command -/

theorem State.Inv.fetchExecute {s t : State} (hs : s.Inv) (hrun : s.Running) (h : fetchExecute s = .next t) :
    t.Inv := by
  rw [← perform_tick_of_running hrun] at h
  obtain ⟨hpc, hfetch⟩ | ⟨-, hfetch⟩ | ⟨hpc, hfetch⟩ := s.fetch_cases
  · rw [perform_tick_of_fetch_error hrun hfetch] at h; cases h
    exact hs.raise hpc
  · rw [perform_tick_of_fetch_error hrun hfetch] at h; cases h
    exact hs.raise (Nat.le_refl 4096)
  · cases hop : decodeWord (assemble (s.byteAt s.pc.toNat) (s.byteAt (s.pc.toNat + 1))) with
    | unimplemented =>
      rw [perform_tick_of_unimplemented hrun hfetch hop] at h; cases h
      exact hs.raise hop
    | instr i =>
      rw [perform_tick_of_instr hrun hfetch hop] at h
      exact hs.exec hrun hpc h

/-- An image that fits lies above the font and the reserved region and within the address space. -/
theorem State.Inv.writeBytes {s : State} (hs : s.Inv) {bytes : List Byte} (hlen : bytes.length ≤ 3584) :
    (s.writeBytes 0x200 bytes).Inv := by
  have hbelow {a : Nat} (ha : a < 512) : (s.writeBytes 0x200 bytes).byteAt a = s.byteAt a :=
    State.byteAt_writeBytes_outside s 0x200 bytes a (.inl ha)
  constructor
  case memWf => exact State.writeBytes_memWf s 0x200 bytes hs.memWf (by omega)
  case font => intro a ha; rw [hbelow (by omega), hs.font a ha]; simp only [State.writeBytes_env]
  case reserved => intro a hlo hhi; rw [hbelow hhi, hs.reserved a hlo hhi]
  case stack => simpa only [State.writeBytes_sp, State.writeBytes_stack] using hs.stack
  case pc => rw [State.writeBytes_pc]; exact hs.pc
  case fault => rw [State.writeBytes_fault]; exact hs.fault

theorem State.Inv.dequeue {s : State} (hs : s.Inv) : s.dequeue.Inv :=
  ⟨hs.memWf, hs.font, hs.reserved, hs.stack, hs.pc, hs.fault⟩

theorem State.Inv.performRunning {c : Command} {s t : State} (hs : s.Inv) (hrun : s.Running)
    (h : perform c s = .next t) : t.Inv := by
  cases c with
  | reset => cases h; exact resetWith_inv s.env
  | load bytes =>
    rw [perform_load_of_running bytes hrun] at h
    split at h
    · next hlen => cases h; exact hs.raise hlen
    · next hlen => cases h; exact hs.writeBytes (Nat.le_of_not_lt hlen)
  | tick => rw [perform_tick_of_running hrun] at h; exact hs.fetchExecute hrun h
  | tickTimers =>
    rw [perform_tickTimers_of_running hrun] at h; cases h
    exact ⟨hs.memWf, hs.font, hs.reserved, hs.stack, hs.pc, hs.fault⟩
  | keypress k p =>
    rw [perform_keypress_of_running k p hrun] at h; cases h
    exact ⟨hs.memWf, hs.font, hs.reserved, hs.stack, hs.pc, hs.fault⟩
  | display =>
    rw [perform_display_of_running hrun] at h; cases h
    exact ⟨hs.memWf, hs.font, hs.reserved, hs.stack, hs.pc, hs.fault⟩

theorem State.Inv.perform {c : Command} {s t : State} (hs : s.Inv) (h : perform c s = .next t) : t.Inv := by
  by_cases hrun : s.Running
  · exact hs.performRunning hrun h
  · by_cases hc : c = .reset
    · subst hc; cases h; exact resetWith_inv s.env
    · rw [perform_of_stopped hrun hc] at h; cases h
      exact hs

/-- Settles O14: the step is a command at the state in which it is no longer pending. -/
theorem stepKeepsInvariants : Obligations.StepKeepsInvariants :=
  fun _ _ hs h => hs.dequeue.perform h

end Sys2Proof.Machine

/-! ## Call, return and the computed jump (40_engine_and_control.md R95 to R98) -/

namespace Sys2Proof.Machine

/-- Settles O23: with an entry live RET writes `PC` and `SP`, without one it raises. -/
theorem retPopsTheNewestEntry : Obligations.RetPopsTheNewestEntry := by
  refine ⟨fun s k hk hsp => ?_, fun s hsp => exec_ret_of_empty hsp, isEncodedBy_ret⟩
  have hpos : 0 < s.sp.val := by omega
  have htop : s.sp.val - 1 = k := by omega
  exact ⟨_, exec_ret_of_pos hpos, by simp only [htop], htop, fun _ => rfl, fun _ => rfl, rfl⟩

/-- Settles O25: with room on the stack CALL writes one slot, `SP` and `PC`, without room it raises. -/
theorem callPushesTheReturnAddress : Obligations.CallPushesTheReturnAddress := by
  refine fun nnn => ⟨fun s hsp => ?_, fun s hsp => exec_call_of_full nnn hsp, isEncodedBy_call nnn⟩
  refine ⟨_, exec_call_of_lt nnn hsp, toNat_zextTarget nnn, rfl, Vector.getElem_set_self hsp, fun j hj hne => ?_,
    fun _ => rfl, fun _ => rfl, rfl⟩
  exact Vector.getElem_set_ne hsp hj hne.symm

theorem exec_jpV0 (nnn : Target) (s : State) : exec (.jpV0 nnn) s = .next (s.setPc (s.offsetTarget nnn)) := rfl

/-- Settles O26: the sum fits the 16 bits of `PC`. -/
theorem jumpV0AddsRegisterZero : Obligations.JumpV0AddsRegisterZero := fun nnn =>
  ⟨fun s => ⟨_, exec_jpV0 nnn s, s.toNat_offsetTarget nnn, OnlyRegs.setPc [] s _⟩, isEncodedBy_jpV0 nnn⟩

/-- Settles O27: the RET finds in the newest slot what the CALL has put there, whatever else has changed. -/
theorem retAfterCallReturnsBehindTheCall : Obligations.RetAfterCallReturnsBehindTheCall := by
  intro s nnn hsp
  obtain ⟨hcall, -⟩ := callPushesTheReturnAddress nnn
  obtain ⟨t, hexec, -, htsp, hslot, -⟩ := hcall s hsp
  refine ⟨t, hexec, fun t' hsp' hstack' => ?_⟩
  obtain ⟨hret, -⟩ := retPopsTheNewestEntry
  obtain ⟨u, hu, hpc, husp, -⟩ := hret t' s.sp.val hsp (by rw [hsp', htsp])
  refine ⟨u, hu, ?_, Fin.ext husp⟩
  rw [hpc, ← hslot]
  simp only [hstack']

/-- Settles O28: the word at `a` is the one word of JP `a`, and the jump puts in `PC` what is there already. -/
theorem selfJumpIsAFixedPoint : Obligations.SelfJumpIsAFixedPoint := by
  intro s a ha hs hidle hpc hword
  subst hpc
  have htarget : (BitVec.ofNat 12 s.pc.toNat).toNat = s.pc.toNat := by
    rw [BitVec.toNat_ofNat, Nat.mod_eq_of_lt (by omega)]
  have hop : decodeWord (assemble (s.byteAt s.pc.toNat) (s.byteAt (s.pc.toNat + 1))) =
      .instr (.jp (BitVec.ofNat 12 s.pc.toNat)) :=
    (isEncodedBy_jp _ _).2 (by rw [toNat_assemble, hword, htarget])
  have hstay : zextTarget (BitVec.ofNat 12 s.pc.toNat) = s.pc :=
    BitVec.eq_of_toNat_eq (by rw [toNat_zextTarget, htarget])
  rw [step_of_idle hidle, perform_tick_of_instr hs (s.fetch_ok ha) hop, exec_jp, hstay]
  rfl

end Sys2Proof.Machine

/-! ## The keypad instructions (45_keypad.md R151 to R153) -/

namespace Sys2Proof.Machine

/-- Settles O30: the key operand is checked first, and both skips test the one key it names. -/
theorem keySkips : Obligations.KeySkips := by
  refine fun x => ⟨fun s k hk hx => ?_, fun s hx => ⟨exec_skp_of_gt hx, exec_sknp_of_gt hx⟩, isEncodedBy_skp x,
    isEncodedBy_sknp x⟩
  subst hx
  exact ⟨⟨_, exec_skp_of_lt hk, s.pc_advance_skipIf Iff.rfl, .advance_skipIf s _⟩,
    ⟨_, exec_sknp_of_lt hk, s.pc_advance_skipIf_not Iff.rfl, .advance_skipIf s _⟩⟩

theorem toNat_keyByte (k : Key) : (keyByte k).toNat = k.val := by
  have hk : k.val < 16 := k.isLt
  rw [keyByte, BitVec.toNat_ofNat, Nat.mod_eq_of_lt (by omega)]

/-- Settles O31: with the lowest key given LD Vx, K is one write of its number, with none pressed a skip. -/
theorem readKeyTakesTheLowestOrSkips : Obligations.ReadKeyTakesTheLowestOrSkips := by
  refine fun x => ⟨fun s k hk hpressed hlow => ?_, fun s hnone => ?_, isEncodedBy_ldVxK x⟩
  · have hkey : s.lowestKey = some ⟨k, hk⟩ := (s.lowestKey_some _).2 ⟨hpressed, fun j hj => hlow j.val hj⟩
    obtain ⟨t, hexec, hreg, hpc, hframe⟩ := exists_next_of_setReg (exec_ldVxK_of_some x hkey)
    exact ⟨t, hexec, by rw [hreg, toNat_keyByte], hpc, hframe⟩
  · have hkey : s.lowestKey = none := s.lowestKey_none.2 fun k => hnone k.val k.isLt
    exact ⟨_, exec_ldVxK_of_none x hkey, pc_advance_skip s.pc, .advance_skipIf s true⟩

end Sys2Proof.Machine

/-! ## Logic, arithmetic, shifts and random (42_register_alu.md R114 to R122) -/

namespace Sys2Proof.Machine

/-! ### AND and XOR under `BITOPS_ALL_OR` -/

theorem exec_andReg (x y : Reg) (s : State) :
    exec (.andReg x y) s = .next (s.advance.setReg x (s.andOperands x y)) := rfl

theorem exec_xorReg (x y : Reg) (s : State) :
    exec (.xorReg x y) s = .next (s.advance.setReg x (s.xorOperands x y)) := rfl

theorem State.getLsbD_andOperands (s : State) (x y : Reg) (b : Nat) :
    (s.andOperands x y).getLsbD b = (if s.env.bitopsAllOr then (s.reg x).getLsbD b || (s.reg y).getLsbD b
      else (s.reg x).getLsbD b && (s.reg y).getLsbD b) := by
  rw [State.andOperands]
  split
  · exact BitVec.getLsbD_or
  · exact BitVec.getLsbD_and

theorem State.getLsbD_xorOperands (s : State) (x y : Reg) (b : Nat) :
    (s.xorOperands x y).getLsbD b = (if s.env.bitopsAllOr then (s.reg x).getLsbD b || (s.reg y).getLsbD b
      else (s.reg x).getLsbD b ^^ (s.reg y).getLsbD b) := by
  rw [State.xorOperands]
  split
  · exact BitVec.getLsbD_or
  · exact BitVec.getLsbD_xor

/-- Settles O35: the option chooses the operation, and each of the three acts bit by bit. -/
theorem andXorCombineBits : Obligations.AndXorCombineBits := by
  refine fun x y => ⟨fun s => ?_, fun s => ?_, isEncodedBy_andReg x y, isEncodedBy_xorReg x y⟩
  · obtain ⟨t, hexec, hreg, hpc, hframe⟩ := exists_next_of_setReg (exec_andReg x y s)
    exact ⟨t, hexec, fun b => by rw [hreg, State.getLsbD_andOperands], hpc, hframe⟩
  · obtain ⟨t, hexec, hreg, hpc, hframe⟩ := exists_next_of_setReg (exec_xorReg x y s)
    exact ⟨t, hexec, fun b => by rw [hreg, State.getLsbD_xorOperands], hpc, hframe⟩

/-! ### A result and a flag -/

theorem toNat_flagByte (c : Bool) : (flagByte c).toNat = c.toNat := by
  cases c with
  | false => rfl
  | true => rfl

theorem toNat_flagByte_decide (P : Prop) [Decidable P] : (flagByte (decide P)).toNat = if P then 1 else 0 := by
  rw [toNat_flagByte, Bool.toNat, Bool.cond_decide]

/-- An advance and a write of `V[x]` and the flag leave every other register and every other field. -/
theorem OnlyRegs.advance_setResult (s : State) (x : Reg) (b : Byte) (c : Bool) :
    OnlyRegs [x, 15] s (s.advance.setResult x b c) := by
  refine ⟨fun r hr => ?_, State.setResult_byteAt s.advance x b c, rfl⟩
  obtain ⟨hrx, hr15⟩ : r ≠ x ∧ r ≠ 15 := by simpa using hr
  rw [State.setResult_reg, if_neg hr15, if_neg hrx, State.advance_reg]

/-- An advance and a write of `V[x]` and then the flag, as the statements on such an instruction have it: with `x = 15`
the flag stands (R110). -/
theorem exists_next_of_setResult {i : Instr} {s : State} {x : Reg} {b : Byte} {c : Bool}
    (h : exec i s = .next (s.advance.setResult x b c)) :
    ∃ t, exec i s = .next t ∧ (x ≠ 15 → t.reg x = b) ∧ t.reg 15 = flagByte c ∧ t.pc = s.pc + 2 ∧
      OnlyRegs [x, 15] s t := by
  refine ⟨_, h, fun hx => ?_, ?_, rfl, .advance_setResult s x b c⟩
  · rw [State.setResult_reg, if_neg hx, if_pos rfl]
  · rw [State.setResult_reg, if_pos rfl]

theorem exec_addReg (x y : Reg) (s : State) : exec (.addReg x y) s =
    .next (s.advance.setResult x (s.reg x + s.reg y) (carryOf (s.reg x) (s.reg y))) := rfl

theorem exec_sub (x y : Reg) (s : State) : exec (.sub x y) s =
    .next (s.advance.setResult x (s.reg x - s.reg y) (notBorrowOf (s.reg x) (s.reg y))) := rfl

theorem exec_subn (x y : Reg) (s : State) : exec (.subn x y) s =
    .next (s.advance.setResult x (s.reg y - s.reg x) (notBorrowOf (s.reg y) (s.reg x))) := rfl

theorem exec_shr (x y : Reg) (s : State) : exec (.shr x y) s =
    .next (s.advance.setResult x (s.reg x >>> 1) (bitOutRight (s.reg x))) := rfl

theorem exec_shl (x y : Reg) (s : State) : exec (.shl x y) s =
    .next (s.advance.setResult x (s.reg x <<< 1) (bitOutLeft (s.reg x))) := rfl

/-- Settles O36: the 8-bit sum is the sum modulo 256, and the carry is decided on the sum itself. -/
theorem addWritesSumAndCarry : Obligations.AddWritesSumAndCarry := by
  refine fun x y => ⟨fun s => ?_, isEncodedBy_addReg x y⟩
  obtain ⟨t, hexec, hreg, hflag, hpc, hframe⟩ := exists_next_of_setResult (exec_addReg x y s)
  refine ⟨t, hexec, fun hx => ?_, ?_, hpc, hframe⟩
  · rw [hreg hx, BitVec.toNat_add]
  · rw [hflag, carryOf, toNat_flagByte_decide]

theorem toNat_sub_byte (a b : Byte) : (a - b).toNat = (a.toNat + 256 - b.toNat) % 256 := by
  have hb : b.toNat < 256 := b.isLt
  rw [BitVec.toNat_sub, Nat.add_comm, Nat.add_sub_assoc (by omega)]

theorem toNat_flagByte_notBorrowOf (a b : Byte) :
    (flagByte (notBorrowOf a b)).toNat = if a.toNat < b.toNat then 0 else 1 := by
  rw [notBorrowOf, toNat_flagByte_decide, if_congr Nat.not_lt.symm rfl rfl, ite_not]

/-- Settles O37: both are the one subtraction, with the operands exchanged. -/
theorem subtractionsWriteDifferenceAndNotBorrow : Obligations.SubtractionsWriteDifferenceAndNotBorrow := by
  refine fun x y => ⟨fun s => ?_, fun s => ?_, isEncodedBy_sub x y, isEncodedBy_subn x y⟩
  · obtain ⟨t, hexec, hreg, hflag, hpc, hframe⟩ := exists_next_of_setResult (exec_sub x y s)
    exact ⟨t, hexec, fun hx => by rw [hreg hx, toNat_sub_byte], by rw [hflag, toNat_flagByte_notBorrowOf], hpc, hframe⟩
  · obtain ⟨t, hexec, hreg, hflag, hpc, hframe⟩ := exists_next_of_setResult (exec_subn x y s)
    exact ⟨t, hexec, fun hx => by rw [hreg hx, toNat_sub_byte], by rw [hflag, toNat_flagByte_notBorrowOf], hpc, hframe⟩

theorem toNat_flagByte_bitOutRight (a : Byte) : (flagByte (bitOutRight a)).toNat = a.toNat % 2 := by
  rw [toNat_flagByte, bitOutRight, BitVec.getLsbD, Nat.toNat_testBit, pow_zero, Nat.div_one]

theorem toNat_flagByte_bitOutLeft (a : Byte) : (flagByte (bitOutLeft a)).toNat = a.toNat / 128 := by
  have ha : a.toNat < 256 := a.isLt
  rw [toNat_flagByte, bitOutLeft, BitVec.getLsbD, Nat.toNat_testBit]
  omega

/-- Settles O38: a shift by one halves or doubles, and the bit it drops is the lowest or highest of the old value. -/
theorem shiftsMoveOneBitIntoVf : Obligations.ShiftsMoveOneBitIntoVf := by
  refine fun x y => ⟨fun s => ?_, fun s => ?_, isEncodedBy_shr x y, isEncodedBy_shl x y⟩
  · obtain ⟨t, hexec, hreg, hflag, hpc, hframe⟩ := exists_next_of_setResult (exec_shr x y s)
    refine ⟨t, hexec, fun hx => ?_, by rw [hflag, toNat_flagByte_bitOutRight], hpc, hframe⟩
    rw [hreg hx, BitVec.toNat_ushiftRight, Nat.shiftRight_eq_div_pow, pow_one]
  · obtain ⟨t, hexec, hreg, hflag, hpc, hframe⟩ := exists_next_of_setResult (exec_shl x y s)
    refine ⟨t, hexec, fun hx => ?_, by rw [hflag, toNat_flagByte_bitOutLeft], hpc, hframe⟩
    rw [hreg hx, BitVec.toNat_shiftLeft, Nat.shiftLeft_eq, pow_one, Nat.mul_comm]

/-! ### The random byte -/

theorem exec_rnd (x : Reg) (nn : Byte) (s : State) :
    exec (.rnd x nn) s = .next (s.advance.drawn.setReg x (s.rnd &&& nn)) := rfl

/-- Settles O39: CXNN writes `V[x]` and counts the draw. -/
theorem randomByteIsMasked : Obligations.RandomByteIsMasked := by
  refine fun x nn => ⟨fun s => ⟨_, exec_rnd x nn s, fun b => ?_, rfl, fun r hr => ?_, fun _ => rfl, rfl, rfl⟩,
    isEncodedBy_rnd x nn⟩
  · rw [State.setReg_reg_self, BitVec.getLsbD_and, State.rnd]
  · rw [State.setReg_reg, if_neg hr, State.drawn_reg, State.advance_reg]

end Sys2Proof.Machine

/-! ## Index arithmetic (43_index.md R131, R132) -/

namespace Sys2Proof.Machine

theorem exec_addI (x : Reg) (s : State) : exec (.addI x) s = .next (s.advance.setI (s.indexPlus x)) := rfl

theorem exec_ldF (x : Reg) (s : State) : exec (.ldF x) s = .next (s.advance.setI (s.glyphAddress x)) := rfl

theorem State.toNat_indexPlus (s : State) (x : Reg) :
    (s.indexPlus x).toNat = (s.i.toNat + (s.reg x).toNat) % 65536 := by
  rw [State.indexPlus, BitVec.toNat_add, zextByte, BitVec.toNat_setWidth_of_le (by decide)]

/-- Five times a byte is at most 1275. -/
theorem State.toNat_glyphAddress (s : State) (x : Reg) : (s.glyphAddress x).toNat = (s.reg x).toNat * 5 := by
  have hreg : (s.reg x).toNat < 256 := (s.reg x).isLt
  rw [State.glyphAddress, BitVec.toNat_mul, zextByte, BitVec.toNat_setWidth_of_le (by decide), BitVec.toNat_ofNat]
  simp only [Config.fontStride]
  omega

/-- Settles O41: both are one write of `I`, of a 16-bit sum and of a product that fits. -/
theorem indexArithmetic : Obligations.IndexArithmetic := by
  refine fun x => ⟨fun s => ?_, fun s => ?_, isEncodedBy_addI x, isEncodedBy_ldF x⟩
  · obtain ⟨t, hexec, hi, hframe⟩ := exists_next_of_setI (exec_addI x s)
    exact ⟨t, hexec, by rw [hi, State.toNat_indexPlus], hframe⟩
  · obtain ⟨t, hexec, hi, hframe⟩ := exists_next_of_setI (exec_ldF x s)
    exact ⟨t, hexec, by rw [hi, State.toNat_glyphAddress], hframe⟩

end Sys2Proof.Machine

/-! ## Drawing a sprite (44_display.md R141 to R143) -/

namespace Sys2Proof.Machine

/-! ### The cells of a sprite -/

/-- Two pixels stand in one cell exactly when both coordinates agree after wrapping (R34). -/
theorem cellAt_eq_iff (px py qx qy : Nat) : cellAt px py = cellAt qx qy ↔ px % 64 = qx % 64 ∧ py % 32 = qy % 32 := by
  rw [Fin.ext_iff]
  show px % 64 + 64 * (py % 32) = qx % 64 + 64 * (qy % 32) ↔ _
  omega

theorem rowCells_nodup (vx vy r : Nat) (b : Byte) : (rowCells vx vy r b).Nodup := by
  refine List.Nodup.map_on (fun j hj k hk h => ?_) (List.nodup_range.filter _)
  have hj : j < 8 := List.mem_range.1 (List.mem_of_mem_filter hj)
  have hk : k < 8 := List.mem_range.1 (List.mem_of_mem_filter hk)
  have hx : (vx + j) % 64 = (vx + k) % 64 := ((cellAt_eq_iff ..).1 h).1
  omega

/-- Rows less than 32 apart stand in different rows of the screen. -/
theorem rowCells_disjoint (vx vy : Nat) {r q : Nat} (hrq : r < q) (hqr : q < r + 32) (b c : Byte) :
    (rowCells vx vy r b).Disjoint (rowCells vx vy q c) := by
  intro cell hr hq
  obtain ⟨j, -, -, rfl⟩ := (mem_rowCells ..).1 hr
  obtain ⟨k, -, -, h⟩ := (mem_rowCells ..).1 hq
  have hy : (vy + r) % 32 = (vy + q) % 32 := ((cellAt_eq_iff ..).1 h).2
  omega

/-- A sprite of at most 32 rows does not meet itself (R142 (c)). -/
theorem spriteCells_nodup (vx vy r : Nat) (rows : List Byte) (h : rows.length ≤ 32) :
    (spriteCells vx vy r rows).Nodup := by
  induction rows generalizing r with
  | nil => exact List.nodup_nil
  | cons b bs ih =>
    rw [List.length_cons] at h
    refine (rowCells_nodup vx vy r b).append (ih (r + 1) (by omega)) fun c hb hbs => ?_
    obtain ⟨q, hq, hc⟩ := (mem_spriteCells ..).1 hbs
    exact rowCells_disjoint vx vy (by omega) (by omega) b bs[q] hb hc

theorem State.length_spriteRows (s : State) (n : Nat) : (s.spriteRows n).length = n := by
  rw [State.spriteRows, List.length_map, List.length_range']

theorem State.getElem_spriteRows (s : State) {n r : Nat} (h : r < (s.spriteRows n).length) :
    (s.spriteRows n)[r] = s.byteAt (s.i.toNat + r) := by
  simp only [State.spriteRows, List.getElem_map, List.getElem_range', Nat.one_mul]

/-- The cells a DRW of `n` rows visits are those its 1 bits land on. -/
theorem State.mem_spriteCells_iff_covers (s : State) (vx vy n : Nat) (c : Cell) :
    c ∈ spriteCells vx vy 0 (s.spriteRows n) ↔ SpriteCovers (fun r => s.byteAt (s.i.toNat + r)) vx vy n c := by
  simp only [mem_spriteCells, mem_rowCells, State.getElem_spriteRows, State.length_spriteRows, Nat.zero_add,
    Fin.ext_iff]
  constructor
  · rintro ⟨r, hr, b, hb, hbit, hc⟩
    exact ⟨r, b, hr, hb, hbit, hc⟩
  · rintro ⟨r, b, hr, hb, hbit, hc⟩
    exact ⟨r, hr, b, hb, hbit, hc⟩

/-! ### What a DRW draws -/

/-- The sprite of a DRW of `n` rows lands on cell `c`. -/
def State.Covers (s : State) (x y : Reg) (n : Nat) (c : Cell) : Prop :=
  SpriteCovers (fun r => s.byteAt (s.i.toNat + r)) (s.reg x).toNat (s.reg y).toNat n c

theorem State.drawing_fb (s : State) (x y : Reg) (n : Nat) (c : Cell) :
    (s.drawing x y n).1[c.val] = true ↔ s.fb[c.val] = true ∨ s.Covers x y n c := by
  rw [State.drawing, drawSprite, plotCells_fb, State.mem_spriteCells_iff_covers]
  rfl

theorem State.drawing_collision (s : State) (x y : Reg) {n : Nat} (hn : n < 16) :
    (s.drawing x y n).2 = true ↔ ∃ c, s.Covers x y n c ∧ s.fb[c.val] = true := by
  have hnodup := spriteCells_nodup (s.reg x).toNat (s.reg y).toNat 0 (s.spriteRows n)
    (by rw [State.length_spriteRows]; omega)
  rw [State.drawing, drawSprite, plotCells_collision _ _ hnodup, or_iff_right Bool.false_ne_true]
  exact exists_congr fun c => and_congr_left fun _ => s.mem_spriteCells_iff_covers _ _ n c

theorem State.reg_vf_setDrawing (s : State) (d : Framebuffer × Bool) : (s.setDrawing d).reg 15 = flagByte d.2 := by
  rw [State.setDrawing_reg, if_pos rfl]

/-- Settles O43: the cells set are those covered, and since they are distinct the collision is one with a cell that was
true on entry. -/
theorem drawSetsCoveredCells : Obligations.DrawSetsCoveredCells := by
  refine fun x y n hn => ⟨fun s hin => ⟨_, exec_drw_of_inRange x y hin, s.drawing_fb x y n, ?_, ?_, rfl, fun r hr => ?_,
    fun _ => rfl, rfl⟩, fun s r hr hout hfirst => exec_drw_of_row x y hr hout hfirst, isEncodedBy_drw x y hn⟩
  · rintro ⟨c, hc, hcovers⟩
    have hcollision : (s.drawing x y n).2 = true := (s.drawing_collision x y hn).2 ⟨c, hcovers, hc⟩
    rw [State.reg_vf_setDrawing, hcollision]
    rfl
  · intro hnone
    have hcollision : (s.drawing x y n).2 = false := Bool.eq_false_iff.2 fun h => by
      obtain ⟨c, hcovers, hc⟩ := (s.drawing_collision x y hn).1 h
      exact hnone c hc hcovers
    rw [State.reg_vf_setDrawing, hcollision]
    rfl
  · rw [State.setDrawing_reg, if_neg hr, State.advance_reg]

/-- Settles O44: a raise keeps the screen and a drawing only adds to it; a sprite has at most 15 rows, and one without
rows has no cell. -/
theorem drawCornerCases : Obligations.DrawCornerCases := by
  refine ⟨fun x y n s t h c hc => ?_, fun vx vy rows hrows => spriteCells_nodup vx vy 0 rows (by omega),
    fun x y s => ⟨_, exec_drw_of_inRange x y (.inl rfl), rfl, s.advance.reg_vf_setDrawing _⟩⟩
  by_cases hin : n = 0 ∨ s.i.toNat + n ≤ 4096
  · rw [exec_drw_of_inRange x y hin] at h; cases h
    exact (s.drawing_fb x y n c).2 (.inl hc)
  · obtain ⟨r, hr, hout, hfirst⟩ := exists_first_row hin
    rw [exec_drw_of_row x y hr hout hfirst] at h; cases h
    exact hc

/-! ### Drawing twice -/

/-- A sprite covers some cell exactly when one of its bits is 1. -/
theorem exists_covers_iff (row : Nat → Byte) (vx vy n : Nat) :
    (∃ c, SpriteCovers row vx vy n c) ↔ ∃ r b, r < n ∧ b < 8 ∧ (row r).getLsbD b = true := by
  constructor
  · rintro ⟨c, r, b, hr, hb, hbit, -⟩
    exact ⟨r, 7 - b, hr, by omega, hbit⟩
  · rintro ⟨r, b, hr, hb, hbit⟩
    have hcolumn : 7 - (7 - b) = b := by omega
    exact ⟨cellAt (vx + (7 - b)) (vy + r), r, 7 - b, hr, by omega, hcolumn.symm ▸ hbit, rfl⟩

/-- A drawing moves neither `I` nor the coordinates of the next one, unless one of these is `VF`. -/
theorem State.covers_advance_setDrawing (s : State) (d : Framebuffer × Bool) {x y : Reg} (hx : x ≠ 15) (hy : y ≠ 15)
    (n : Nat) (c : Cell) : (s.advance.setDrawing d).Covers x y n c ↔ s.Covers x y n c := by
  have hregx : (s.advance.setDrawing d).reg x = s.reg x := (State.setDrawing_reg ..).trans (if_neg hx)
  have hregy : (s.advance.setDrawing d).reg y = s.reg y := (State.setDrawing_reg ..).trans (if_neg hy)
  rw [State.Covers, hregx, hregy]
  rfl

theorem flagByte_eq_one_iff (c : Bool) : flagByte c = 1 ↔ c = true := by
  cases c with
  | false => decide
  | true => decide

/-- Settles O45: the second drawing covers the cells of the first one, and each of them is true by then. -/
theorem drawingTwiceCollides : Obligations.DrawingTwiceCollides := by
  intro x y n s hn hx hy hin
  let t : State := s.advance.setDrawing (s.drawing x y n)
  have hcovers (c : Cell) : t.Covers x y n c ↔ s.Covers x y n c := s.covers_advance_setDrawing _ hx hy n c
  have hset (c : Cell) (hc : s.Covers x y n c) : t.fb[c.val] = true := (s.drawing_fb x y n c).2 (.inr hc)
  refine ⟨t, _, exec_drw_of_inRange x y hin, exec_drw_of_inRange x y (s := t) hin, Vector.ext fun k hk => ?_, ?_⟩
  · have hcell := t.drawing_fb x y n ⟨k, hk⟩
    rw [hcovers, or_iff_left_of_imp (hset ⟨k, hk⟩)] at hcell
    exact Bool.eq_iff_iff.2 hcell
  · rw [State.reg_vf_setDrawing, flagByte_eq_one_iff, t.drawing_collision x y hn,
      ← exists_covers_iff _ (s.reg x).toNat (s.reg y).toNat]
    refine exists_congr fun c => ?_
    rw [hcovers]
    exact and_iff_left_of_imp (hset c)

/-! ### The font -/

/-- Two sprites with the same first `n` rows cover the same cells. -/
theorem spriteCovers_congr {row row' : Nat → Byte} {n : Nat} (h : ∀ r, r < n → row r = row' r) (vx vy : Nat)
    (c : Cell) : SpriteCovers row vx vy n c ↔ SpriteCovers row' vx vy n c := by
  refine exists_congr fun r => exists_congr fun b => and_congr_right fun hr => ?_
  rw [h r hr]

/-- Settles O46: LD F points `I` at the digit's five bytes, which all lie in the font. -/
theorem fontGlyphIsDrawn : Obligations.FontGlyphIsDrawn := by
  intro x a b s d hd hx hfont
  let t : State := s.advance.setI (s.glyphAddress x)
  have hi : t.i.toNat = 5 * d := by rw [State.setI_i, s.toNat_glyphAddress, hx, Nat.mul_comm]
  refine ⟨t, _, exec_ldF x s, exec_drw_of_inRange a b (s := t) (.inr (by omega)), fun c => ?_⟩
  have hglyph (r : Nat) (hr : r < 5) : t.byteAt (t.i.toNat + r) = s.env.font.toList.getD (5 * d + r) 0 := by
    have hlt : 5 * d + r < 80 := by omega
    rw [hi, List.getD_eq_getElem _ _ (by rw [Vector.length_toList]; exact hlt), Vector.getElem_toList]
    exact hfont (5 * d + r) hlt
  exact (t.drawing_fb a b 5 c).trans (or_congr_right (spriteCovers_congr hglyph _ _ c))

end Sys2Proof.Machine

/-! ## The host's commands but RESET and TICK (46_timers.md R164, R165, 45_keypad.md R154, 44_display.md R144,
70_reset_and_hazards.md R192), and the placing of an instruction -/

namespace Sys2Proof.Machine

/-! ### TICK_TIMERS -/

/-- A timer counts down to 0 and stays there, as a subtraction of natural numbers does. -/
theorem toNat_countDown (t : Byte) : (countDown t).toNat = t.toNat - 1 := by
  have ht : t.toNat < 256 := t.isLt
  have hone : (1 : Byte).toNat = 1 := rfl
  rw [countDown]
  split
  · next h => rw [h]; rfl
  · next h =>
    have hpos : t.toNat ≠ 0 := fun h0 => h (BitVec.eq_of_toNat_eq h0)
    rw [toNat_sub_byte, hone]
    omega

theorem beq_one_eq_decide (b : Byte) : (b == 1) = decide (b.toNat = 1) := by
  rw [Bool.eq_iff_iff, beq_iff_eq, decide_eq_true_eq, ← BitVec.toNat_inj]
  rfl

/-- Settles O48: two countdowns and the cue, which is taken before them. -/
theorem tickTimersCountsDownToZero : Obligations.TickTimersCountsDownToZero := fun s =>
  ⟨fun hs => ⟨_, perform_tickTimers_of_running hs, toNat_countDown s.dt, toNat_countDown s.st,
    by rw [← beq_one_eq_decide]; rfl, rfl⟩, fun h => perform_of_stopped h nofun⟩

/-- The first of a number of steps, of any machine. -/
theorem run_succ_of_step {M : Host.Core} {s t : M.State} (h : M.step s = .next t) (k : Nat) :
    M.run (k + 1) s = M.run k t := by
  rw [Host.Core.run, h]

/-- One step with a TICK_TIMERS pending. -/
theorem exists_step_of_pending_tickTimers {s : State} {rest : List Command} (hs : s.Running)
    (h : s.env.pending = .tickTimers :: rest) :
    ∃ t, step s = .next t ∧ t.Running ∧ t.env.pending = rest ∧ t.dt.toNat = s.dt.toNat - 1 ∧
      t.st.toNat = s.st.toNat - 1 ∧ t.pc = s.pc := by
  rw [step_of_pending h, perform_tickTimers_of_running (s := { s with env := { s.env with pending := rest } }) hs]
  exact ⟨_, rfl, hs, rfl, toNat_countDown s.dt, toNat_countDown s.st, rfl⟩

/-- Settles O49, by induction on the number of commands: each step takes one from the queue and one from each timer. -/
theorem timersAfterManyTicks : Obligations.TimersAfterManyTicks := by
  intro k
  induction k with
  | zero =>
    intro s hs _
    have hself (b : Byte) : b = BitVec.ofNat 8 (b.toNat - 0) := by
      rw [Nat.sub_zero, BitVec.ofNat_toNat, BitVec.setWidth_eq]
    exact ⟨s, rfl, hself s.dt, hself s.st, rfl, hs⟩
  | succ k ih =>
    intro s hs hpending
    obtain ⟨t, hstep, ht, hrest, hdt, hst, hpc⟩ := exists_step_of_pending_tickTimers hs hpending
    obtain ⟨u, hrun, hudt, hust, hupc, hu⟩ := ih t ht hrest
    refine ⟨u, (run_succ_of_step (M := Sys2Proof.core) hstep k).trans hrun, ?_, ?_, hupc.trans hpc, hu⟩
    · rw [hudt, hdt, Nat.sub_sub, Nat.add_comm]
    · rw [hust, hst, Nat.sub_sub, Nat.add_comm]

/-! ### KEYPRESS and DISPLAY -/

/-- Settles O50: one write of `KEY`. -/
theorem keypressSetsOneFlag : Obligations.KeypressSetsOneFlag := by
  refine fun k p s => ⟨fun hs => ⟨_, perform_keypress_of_running k p hs, Vector.getElem_set_self k.isLt, fun j hj => ?_,
    rfl⟩, fun h => perform_of_stopped h nofun⟩
  have hne : k.val ≠ j.val := fun e => hj (Fin.ext e.symm)
  exact Vector.getElem_set_ne k.isLt j.isLt hne

/-- Settles O51: the cells returned are the framebuffer itself. -/
theorem displayReturnsTheCells : Obligations.DisplayReturnsTheCells := fun s =>
  ⟨fun hs => ⟨_, s.fb, perform_display_of_running hs, rfl, rfl, fun _ _ _ _ => rfl⟩,
    fun h => perform_of_stopped h nofun⟩

/-! ### LOAD -/

theorem perform_load_of_fits {bytes : List Byte} {s : State} (hs : s.Running) (hlen : bytes.length ≤ 3584) :
    perform (.load bytes) s = .next (s.writeBytes 0x200 bytes) := by
  rw [perform_load_of_running bytes hs]
  exact if_neg (Nat.not_lt.2 hlen)

/-- Settles O52: an image that fits is one run of bytes written, and a longer one is refused before any is. -/
theorem loadCopiesTheImageOrRaises : Obligations.LoadCopiesTheImageOrRaises := by
  refine fun bytes s => ⟨fun hs hlen => ⟨_, perform_load_of_fits hs hlen, fun j hj => ?_, fun a ha => ?_, ?_⟩,
    fun hs hlen => ?_, fun h => perform_of_stopped h nofun⟩
  · exact State.byteAt_writeBytes_inside s 0x200 bytes j hj
  · exact State.byteAt_writeBytes_outside s 0x200 bytes a ha
  · exact State.writeBytes_frame s 0x200 bytes
  · rw [perform_load_of_running bytes hs]
    exact if_pos hlen

/-- Settles O53: both bytes of the fetch are bytes of the image. -/
theorem fetchSeesTheLoadedImage : Obligations.FetchSeesTheLoadedImage := by
  intro bytes s j hj hs hlen hpc
  have hpc' : (s.writeBytes 0x200 bytes).pc.toNat = 0x200 + j := by rw [State.writeBytes_pc, hpc]
  refine ⟨_, _, perform_load_of_fits hs hlen, State.fetch_ok _ (by omega), ?_⟩
  rw [toNat_assemble, hpc', Nat.add_assoc, State.byteAt_writeBytes_inside s 0x200 bytes j (by omega),
    State.byteAt_writeBytes_inside s 0x200 bytes (j + 1) hj]

/-! ### Placing an instruction for the next fetch -/

/-- The two bytes of a word are the word (R54). -/
theorem assemble_highByte_lowByte (op : Word) : assemble (highByte op) (lowByte op) = op := by
  refine BitVec.eq_of_toNat_eq ?_
  have hop : op.toNat < 65536 := op.isLt
  rw [toNat_assemble, highByte, lowByte, BitVec.extractLsb'_toNat, BitVec.extractLsb'_toNat, Nat.shiftRight_eq_div_pow,
    Nat.shiftRight_zero]
  omega

/-- The decoder of table words is the decoder of words, at the word cut to its bits. -/
theorem decodeWord_of_decodeTableWord {nbits w : Nat} {i : Instr} (h : decodeTableWord nbits w = some i) :
    decodeWord (BitVec.ofNat 16 (w % 2 ^ nbits)) = .instr i := by
  simp only [decodeTableWord, decodeBytes, assemble_highByte_lowByte] at h
  cases hop : decodeWord (BitVec.ofNat 16 (w % 2 ^ nbits)) with
  | instr j => simp only [hop, Option.some.injEq] at h; rw [h]
  | unimplemented => simp [hop] at h

theorem State.toNat_placePc_le (s : State) : s.placePc.toNat ≤ 4094 := by
  rw [State.placePc]
  split
  · assumption
  · decide

theorem State.byteAt_place (s : State) (op : Word) (a : Nat) :
    (s.place op).byteAt a = (s.writeBytes s.placePc.toNat [highByte op, lowByte op]).byteAt a := by
  simp only [State.place, State.byteAt, State.writeBytes_env]

/-- The next fetch reads the word that was placed. -/
theorem State.fetch_place (s : State) (op : Word) : (s.place op).fetch = .ok op := by
  have hpc : (s.place op).pc = s.placePc := rfl
  have hhigh : (s.place op).byteAt s.placePc.toNat = highByte op := (s.byteAt_place op _).trans
    (State.byteAt_writeBytes_inside s s.placePc.toNat [highByte op, lowByte op] 0 Nat.zero_lt_two)
  have hlow : (s.place op).byteAt (s.placePc.toNat + 1) = lowByte op := (s.byteAt_place op _).trans
    (State.byteAt_writeBytes_inside s s.placePc.toNat [highByte op, lowByte op] 1 Nat.one_lt_two)
  rw [State.fetch_ok _ (hpc ▸ s.toNat_placePc_le), hpc, hhigh, hlow, assemble_highByte_lowByte]

/-- Settles O56: the state with the word placed is running and idle, so its step is the TICK that fetches the word. -/
theorem placedWordIsTheNextInstruction : Obligations.PlacedWordIsTheNextInstruction := by
  intro s w i _ h
  have hidle : (s.withFetchWord 16 w).Idle := rfl
  have hrun : (s.withFetchWord 16 w).Running := rfl
  rw [step_of_idle hidle]
  exact perform_tick_of_instr hrun (s.fetch_place _) (decodeWord_of_decodeTableWord h)

end Sys2Proof.Machine
